-- ==== Sys2Proof/Word.lean ====
section
/-! DEFINITION. The word types of the S512 core (spec/00_scope.md R7, R8). All values are unsigned. -/

namespace Sys2Proof

/-- One byte of a byte string, of a buffer or of data memory. -/
abbrev Byte := BitVec 8

/-- A register of the window, a data address, a length or a command word (REG_W, ADDR_W, LEN_W, ITER_W). -/
abbrev Word32 := BitVec 32

/-- A hash word, a schedule word or a working register (WORD). -/
abbrev Word64 := BitVec 64

end Sys2Proof
end

