-- ==== Sys2Proof/Config.lean ====
section
/-! DEFINITION. The free values of the model: what the spec leaves at "any value" (spec/93_implementation_defined.md). -/

namespace Sys2Proof

/-- The free value of type `α` drawn with number `n` (assumption log 7). It has no body, so nothing can be
proved of it and every statement that meets one holds for every value. `State.draws` supplies the number; each
draw advances it, so that no two draws of one type share a number. -/
opaque Config.free (α : Type) [Inhabited α] (n : Nat) : α

end Sys2Proof
end

