-- ==== Sys2Proof/Syntax.lean ====
section
/-! DEFINITION. The commands of the S512 core (spec/30_encoding.md R93), one constructor per row of
spec/opcode_table.json. A command plays the role of an instruction (spec/00_scope.md §6). Its other operands are
the latched operand registers (R92), not fields of the word. -/

namespace Sys2Proof

/-- The engine a HASH_* command acts on: the ENG field, 0 = E0, 1 = E1 (spec/30_encoding.md R91). -/
inductive EngineId where
  | e0
  | e1
deriving DecidableEq, Repr, Inhabited

/-- The eight commands (spec/30_encoding.md R93). -/
inductive Instr where
  /-- HASH_INIT, spec/41_hash_engine.md R161 -/
  | hashInit (eng : EngineId)
  /-- HASH_UPDATE, spec/41_hash_engine.md R162 -/
  | hashUpdate (eng : EngineId)
  /-- HASH_FINALIZE, spec/41_hash_engine.md R163 -/
  | hashFinalize (eng : EngineId)
  /-- HASH_ONESHOT, spec/41_hash_engine.md R164 -/
  | hashOneshot (eng : EngineId)
  /-- MAC_INIT, spec/42_keyed_mac.md R197 -/
  | macInit
  /-- MAC_CLONE, spec/42_keyed_mac.md R198 -/
  | macClone
  /-- MAC_COMPUTE, spec/42_keyed_mac.md R199 -/
  | macCompute
  /-- DERIVE_KEY, spec/43_key_stretcher.md R226 -/
  | deriveKey
deriving DecidableEq, Repr, Inhabited

/-- The three fields of a command word (spec/30_encoding.md R90): OPCODE[7:0], ENG[8], RSVD[31:9]. -/
structure CmdFields where
  rsvd   : BitVec 23
  eng    : BitVec 1
  opcode : BitVec 8
deriving DecidableEq, Repr, Inhabited

/-- Why a command word is illegal (spec/30_encoding.md R94), in the order R95 meets the reasons. -/
inductive IllegalWord where
  /-- RSVD ≠ 0 -/
  | reservedBits
  /-- an OPCODE that R93 does not list -/
  | unknownOpcode
  /-- ENG = 1 with an OPCODE that is not a HASH_* opcode -/
  | engineBit
deriving DecidableEq, Repr

/-- What decoding a word answers (spec/30_encoding.md R95): a command, or illegal. -/
inductive Decoded where
  | command (i : Instr)
  | illegal (why : IllegalWord)
deriving DecidableEq, Repr

end Sys2Proof
end

