-- ==== Sys2Proof/Machine/State.lean ====
section
/-! DEFINITION. The state of the S512 core (spec/10_state.md R20), the data memory and the platform's parameters it
works with, the model's own fields, and the state after reset (spec/10_state.md R43). Plain data throughout. -/

namespace Sys2Proof.Machine

/-- The reasons a step stops with a fault. -/
inductive Fault where
  /-- MEM_RACE: a host write, during BUSY, of a byte in the running command's footprint (spec/20_memory.md R72).
  Raised by the host's memory write. Safe: the model stops. -/
  | memRace (addr : Nat)
  /-- A host access to a data address that does not exist, MEM_ADMIT false (spec/20_memory.md R60; log 10). Raised by
  the host's memory read and write. Safe: the model stops. -/
  | noSuchAddress (addr : Nat)
deriving DecidableEq, Repr

/-- The reasons the model has no meaning for a step. -/
inductive Refusal where
  /-- An instruction without a meaning yet. No arm of `exec` answers it. Safe: the model stops. -/
  | notModelled (mnemonic : String)
  /-- A host register access that is not 32 bits wide or not 4-byte aligned (spec/10_state.md R22, spec/20_memory.md
  R66, spec/93 U11). Raised by the host's register read and write. Safe: the model stops. -/
  | registerAccess (addr : Nat)
  /-- A host register access at an address outside the 256-byte window (spec/10_state.md R21, R22; log 12): it does not
  reach the core. Raised by the host's register read and write. Safe: the model stops. -/
  | outsideWindow (addr : Nat)
deriving DecidableEq, Repr

/-- The error codes (spec/60_exceptions.md R240). Codes 0x08 to 0xFF are never written, so there is no value for
them. -/
inductive ErrCode where
  | ok
  | badCmd
  | finalized
  | length
  | noCtx
  | saltCap
  | addr
  | bus
deriving DecidableEq, Repr, Inhabited

/-- The engine state register FSM (spec/10_state.md R36). Value 3 is never held, so there is no value for it. -/
inductive Fsm where
  | ready
  | absorbing
  | finalized
deriving DecidableEq, Repr, Inhabited

/-- Eight 64-bit words: a running-hash register H[0..7] (spec/10_state.md R32). -/
abbrev HashWords := Vector Word64 8

/-- One hash engine (spec/10_state.md R32 to R36). -/
structure Engine where
  /-- H[0..7], R32 -/
  h    : HashWords
  /-- BUF[0..127], R35 -/
  buf  : Vector Byte 128
  /-- POS, R34 -/
  pos  : BitVec 7
  /-- SIZE, R33 -/
  size : BitVec 128
  /-- FSM, R36 -/
  fsm  : Fsm
deriving DecidableEq, Repr, Inhabited

/-- One snapshot register, CTX_I or CTX_O (spec/10_state.md R38). It holds no buffer. -/
structure Snapshot where
  h    : HashWords
  pos  : BitVec 7
  size : BitVec 128
deriving DecidableEq, Repr, Inhabited

/-- The working registers a to h (spec/10_state.md R40, spec/40_compression.md R127). -/
structure Working where
  a : Word64
  b : Word64
  c : Word64
  d : Word64
  e : Word64
  f : Word64
  g : Word64
  h : Word64
deriving DecidableEq, Repr, Inhabited

/-- The compression unit's share of the scratch (spec/10_state.md R40): W[0..79], a to h, T1, T2. There is one, for both
engines (log 24). -/
structure Workspace where
  w    : Vector Word64 80
  regs : Working
  t1   : Word64
  t2   : Word64
deriving DecidableEq, Repr, Inhabited

/-- The engine scratch (spec/10_state.md R40). -/
structure Scratch where
  /-- KB, the key block -/
  kb   : Vector Byte 128
  /-- IDIG, the inner digest -/
  idig : Vector Byte 64
  /-- U, the current KDF MAC output -/
  u    : Vector Byte 64
  /-- ACC, the KDF accumulator -/
  acc  : Vector Byte 64
  /-- ICNT, the iteration index, of 32 bits (log 25) -/
  icnt : Word32
  /-- W, a to h, T1, T2 -/
  ws   : Workspace
deriving DecidableEq, Repr, Inhabited

/-- The data path: the hidden state of spec/10_state.md R42. -/
structure Datapath where
  /-- E0, the inner engine of the MAC (R37) -/
  e0       : Engine
  /-- E1, the outer engine of the MAC (R37) -/
  e1       : Engine
  /-- CTX_I, R38 -/
  ctxI     : Snapshot
  /-- CTX_O, R38 -/
  ctxO     : Snapshot
  /-- CTX_VALID, R39 -/
  ctxValid : Bool
  /-- the scratch, R40 -/
  scratch  : Scratch
  /-- The model's own work measure: compressions made since reset (spec/70_reset_and_hazards.md R291; log 13). No
  register of the core, and nothing reads it. -/
  compressions : Nat
deriving DecidableEq, Repr, Inhabited

/-- The register window's storage (spec/10_state.md R21 to R30). ID is a constant, CMD stores nothing, and the FSM
fields and CTX_VALID of STATUS are views of the data path. -/
structure Window where
  /-- CTRL[0], IRQ_EN (R24) -/
  irqEn   : Bool
  /-- STATUS[0], BUSY (R25) -/
  busy    : Bool
  /-- STATUS[1], DONE (R25) -/
  done    : Bool
  /-- STATUS[2], ERR (R25) -/
  err     : Bool
  /-- STATUS[3], OVR (R25) -/
  ovr     : Bool
  /-- STATUS[23:16], ERRCODE (R25) -/
  errcode : ErrCode
  srcAddr : Word32
  srcLen  : Word32
  dstAddr : Word32
  auxAddr : Word32
  auxLen  : Word32
  auxCap  : Word32
  iter    : Word32
deriving DecidableEq, Repr, Inhabited

/-- The command latch (spec/10_state.md R31). -/
structure Latch where
  /-- L_CMD -/
  cmd     : Word32
  /-- L_SRC_ADDR -/
  srcAddr : Word32
  /-- L_SRC_LEN -/
  srcLen  : Word32
  /-- L_DST_ADDR -/
  dstAddr : Word32
  /-- L_AUX_ADDR -/
  auxAddr : Word32
  /-- L_AUX_LEN -/
  auxLen  : Word32
  /-- L_AUX_CAP -/
  auxCap  : Word32
  /-- L_ITER -/
  iter    : Word32
deriving DecidableEq, Repr, Inhabited

/-- An operand region `(a, n)` of data memory, in exact integers (spec/20_memory.md R68). -/
structure Region where
  base : Nat
  size : Nat
deriving DecidableEq, Repr, Inhabited

/-- The platform's OPEN parameters (spec/92 D2, D16). No step changes them. -/
structure Platform where
  /-- REG_BASE, the host address of the register window -/
  regBase : Nat
  /-- MEM_ADMIT, true on exactly the addresses of these regions -/
  memAdmit   : List Region
deriving DecidableEq, Repr, Inhabited

/-- The data memory (spec/20_memory.md R60) as (address, byte) pairs, addresses strictly rising and below 2^32, no
entry equal to what an unlisted address reads as (`Memory.wf`). -/
abbrev Memory := List Host.Cell

/-- The width of a host access to the register window (spec/20_memory.md R66). -/
inductive Width where
  | byte
  | half
  | word
deriving DecidableEq, Repr, Inhabited

/-- One operation of the host's program (spec/70_reset_and_hazards.md R285; spec/30_encoding.md R98, R99). -/
inductive HostOp where
  /-- a read of the register window at a host address -/
  | regRead (addr : Nat) (width : Width)
  /-- a write of the register window at a host address -/
  | regWrite (addr : Nat) (width : Width) (v : Word32)
  /-- a read of one byte of data memory -/
  | memRead (addr : Word32)
  /-- a write of one byte of data memory -/
  | memWrite (addr : Word32) (b : Byte)
  /-- `wait` (R99): read STATUS, and again while the value read has bit 0 = 1 -/
  | wait
deriving DecidableEq, Repr, Inhabited

/-- What a host read returned. -/
inductive HostRead where
  | reg (addr : Nat) (v : Word32)
  | mem (addr : Word32) (b : Byte)
deriving DecidableEq, Repr, Inhabited

/-- Which agent takes the next step (spec/70_reset_and_hazards.md R285), or the reset input is asserted (R270). -/
inductive Turn where
  | host
  | engine
  | reset
deriving DecidableEq, Repr, Inhabited

/-- The host's side, the model's own fields (log 1, log 14): the schedule of turns, the operations the host has yet to
perform, and what its reads returned, newest first. -/
structure HostSide where
  sched : List Turn
  ops   : List HostOp
  reads : List HostRead
deriving DecidableEq, Repr, Inhabited

/-- The machine: the core (spec/10_state.md R20), the data memory it works on, the platform and the host. -/
structure State where
  /-- the register window (R21) -/
  win   : Window
  /-- the command latch (R31) -/
  latch : Latch
  /-- the engines, the MAC context and the scratch (R32 to R40) -/
  dp    : Datapath
  /-- the data memory (spec/20_memory.md R60) -/
  mem   : Memory
  /-- REG_BASE and MEM_ADMIT -/
  plat  : Platform
  /-- the host's side -/
  host  : HostSide
  /-- the number of the next free value (log 7), the model's own field -/
  draws : Nat
deriving DecidableEq, Repr, Inhabited

/-- An engine at reset (spec/10_state.md R43): all zero, FSM = FINALIZED. -/
def Engine.reset : Engine :=
  { h := Vector.replicate 8 0, buf := Vector.replicate 128 0, pos := 0, size := 0, fsm := .finalized }

/-- A snapshot register at reset (spec/10_state.md R38, R43). -/
def Snapshot.reset : Snapshot :=
  { h := Vector.replicate 8 0, pos := 0, size := 0 }

/-- The scratch of `State.reset`. DESIGN CHOICE, unsafe (log 6): the spec leaves it unspecified. -/
def Scratch.reset : Scratch :=
  { kb := Vector.replicate 128 0, idig := Vector.replicate 64 0, u := Vector.replicate 64 0,
    acc := Vector.replicate 64 0, icnt := 0,
    ws := { w := Vector.replicate 80 0, regs := ⟨0, 0, 0, 0, 0, 0, 0, 0⟩, t1 := 0, t2 := 0 } }

/-- The data path of `State.reset` (spec/10_state.md R43). -/
def Datapath.reset : Datapath :=
  { e0 := Engine.reset, e1 := Engine.reset, ctxI := Snapshot.reset, ctxO := Snapshot.reset, ctxValid := false,
    scratch := Scratch.reset, compressions := 0 }

/-- The register window at reset (spec/10_state.md R21, R43). -/
def Window.reset : Window :=
  { irqEn := false, busy := false, done := false, err := false, ovr := false, errcode := .ok,
    srcAddr := 0, srcLen := 0, dstAddr := 0, auxAddr := 0, auxLen := 0, auxCap := 0, iter := 0 }

/-- The latch of `State.reset`. DESIGN CHOICE, unsafe (log 5): the spec leaves it unspecified. -/
def Latch.reset : Latch :=
  { cmd := 0, srcAddr := 0, srcLen := 0, dstAddr := 0, auxAddr := 0, auxLen := 0, auxCap := 0, iter := 0 }

/-- The platform of `State.reset`. DESIGN CHOICE, unsafe (log 4): the convention of spec/95_test_vectors.md, 64 KiB of
data memory; the window at host address 0. -/
def Platform.reset : Platform :=
  { regBase := 0, memAdmit := [⟨0, 0x10000⟩] }

/-- The machine right after reset (spec/10_state.md R43): nothing placed, no host operation pending. -/
def State.reset : State :=
  { win := Window.reset, latch := Latch.reset, dp := Datapath.reset, mem := [], plat := Platform.reset,
    host := { sched := [], ops := [], reads := [] }, draws := 0 }

end Sys2Proof.Machine
end

