-- ==== Sys2Proof/Machine/Operands.lean ====
section
/-! DEFINITION. Operands: the byte-order primitives (spec/00_scope.md R10), the latched operand regions of every
format (spec/30_encoding.md R92), the range check (spec/20_memory.md R68) and the footprints (R69). -/

namespace Sys2Proof.Machine

/-- `BE64(B[i..i+7])`: byte i is the most significant (spec/00_scope.md R10). -/
def be64 (B : List Byte) (i : Nat) : Word64 :=
  B.getD i 0 ++ B.getD (i + 1) 0 ++ B.getD (i + 2) 0 ++ B.getD (i + 3) 0 ++
    B.getD (i + 4) 0 ++ B.getD (i + 5) 0 ++ B.getD (i + 6) 0 ++ B.getD (i + 7) 0

/-- The `n` bytes of a value, most significant first: byte j is bits 8(n−1−j)+7 down to 8(n−1−j). For n = 4, 8 and 16
these are `BE32_BYTES`, `BE64_BYTES` and `BE128_BYTES` of spec/00_scope.md R10. -/
def beBytes (n : Nat) {w : Nat} (v : BitVec w) : List Byte :=
  (List.range n).map fun j => v.extractLsb' (8 * (n - 1 - j)) 8

/-- A byte string in a register of `n` bytes, zero-filled at its end: `B || 0^(n − len(B))` (spec/00_scope.md R8). -/
def zeroPadded (n : Nat) (B : List Byte) : Vector Byte n :=
  Vector.ofFn fun i => B.getD i 0

/-- The number of addresses of the data memory, 2^32 (spec/20_memory.md R60). -/
def addressSpace : Nat := 2 ^ 32

/-- SIZE_MAX = 2^125 − 1 bytes (spec/10_state.md R33). -/
def sizeMax : Nat := 2 ^ 125 - 1

/-- The length of a digest, a tag and a derived key in bytes (spec/00_scope.md R7). -/
def digestBytes : Nat := 64

/-- Does the region hold the address? -/
def Region.holds (r : Region) (a : Nat) : Bool :=
  decide (r.base ≤ a) && decide (a < r.base + r.size)

/-- A region with n > 0 is in range when a + n ≤ 2^32, exactly; one with n = 0 always is (spec/20_memory.md R68). -/
def Region.inRange (r : Region) : Bool :=
  decide (r.size = 0) || decide (r.base + r.size ≤ addressSpace)

/-- (L_SRC_ADDR, L_SRC_LEN), the input byte string (spec/10_state.md R28). -/
def Latch.src (l : Latch) : Region := ⟨l.srcAddr.toNat, l.srcLen.toNat⟩

/-- (L_DST_ADDR, 64), the output bytes (spec/10_state.md R28). -/
def Latch.dst (l : Latch) : Region := ⟨l.dstAddr.toNat, digestBytes⟩

/-- (L_AUX_ADDR, L_AUX_LEN + 4), the salt and the counter after it (spec/60_exceptions.md R244). -/
def Latch.salt (l : Latch) : Region := ⟨l.auxAddr.toNat, l.auxLen.toNat + 4⟩

/-- (L_AUX_ADDR + L_AUX_LEN, 4), the counter bytes (spec/43_key_stretcher.md R223). -/
def Latch.counter (l : Latch) : Region := ⟨l.auxAddr.toNat + l.auxLen.toNat, 4⟩

/-- L_AUX_LEN + 4 > L_AUX_CAP, exactly: the salt buffer lacks room (spec/43_key_stretcher.md R221). -/
def Latch.saltTooLong (l : Latch) : Bool :=
  decide (l.auxCap.toNat < l.auxLen.toNat + 4)

/-- The read set of a command (spec/20_memory.md R69). -/
def readSet (l : Latch) : Instr → List Region
  | .hashInit _     => []
  | .hashUpdate _   => [l.src]
  | .hashFinalize _ => []
  | .hashOneshot _  => [l.src]
  | .macInit        => [l.src]
  | .macClone       => []
  | .macCompute     => [l.src]
  | .deriveKey      => [l.src, l.salt]

/-- The write set of a command (spec/20_memory.md R69). -/
def writeSet (l : Latch) : Instr → List Region
  | .hashInit _     => []
  | .hashUpdate _   => []
  | .hashFinalize _ => [l.dst]
  | .hashOneshot _  => [l.dst]
  | .macInit        => []
  | .macClone       => []
  | .macCompute     => [l.dst]
  | .deriveKey      => [l.counter, l.dst]

/-- Does one of the regions hold the address? -/
def anyHolds (rs : List Region) (a : Nat) : Bool :=
  rs.any fun r => r.holds a

end Sys2Proof.Machine
end

