-- ==== Sys2Proof/Machine/Compression.lean ====
section
/-! DEFINITION. The compression engine (spec/40_compression.md): word functions, message schedule, round function and
`Compress`. Nothing here writes a flag or fails. -/

namespace Sys2Proof.Machine

/-- `ROTR(x, n)`, 0 < n < 64 (spec/40_compression.md R110). -/
def rotr (x : Word64) (n : Nat) : Word64 := (x >>> n) ||| (x <<< (64 - n))

/-- `SHR(x, n)` (spec/40_compression.md R111). -/
def shr (x : Word64) (n : Nat) : Word64 := x >>> n

/-- `Ch(x, y, z)` (spec/40_compression.md R112). -/
def choose (x y z : Word64) : Word64 := (x &&& y) ^^^ (~~~x &&& z)

/-- `Maj(x, y, z)` (spec/40_compression.md R113). -/
def majority (x y z : Word64) : Word64 := (x &&& y) ^^^ (x &&& z) ^^^ (y &&& z)

/-- `BSIG0(x)` (spec/40_compression.md R114). -/
def bsig0 (x : Word64) : Word64 := rotr x 28 ^^^ rotr x 34 ^^^ rotr x 39

/-- `BSIG1(x)` (spec/40_compression.md R115). -/
def bsig1 (x : Word64) : Word64 := rotr x 14 ^^^ rotr x 18 ^^^ rotr x 41

/-- `SSIG0(x)` (spec/40_compression.md R116). -/
def ssig0 (x : Word64) : Word64 := rotr x 1 ^^^ rotr x 8 ^^^ shr x 7

/-- `SSIG1(x)` (spec/40_compression.md R117). -/
def ssig1 (x : Word64) : Word64 := rotr x 19 ^^^ rotr x 61 ^^^ shr x 6

/-- W[t], for t below 80. -/
def wordAt (w : Vector Word64 80) (t : Nat) : Word64 := w[t]?.getD 0

/-- The first 16 schedule words of a block, `W[t] <- BE64(B[8t..8t+7])` (spec/40_compression.md R125). -/
def ingest (B : List Byte) (w : Vector Word64 80) : Vector Word64 80 :=
  (List.range 16).foldl (fun w t => w.setIfInBounds t (be64 B (8 * t))) w

/-- `SSIG1(W[t−2]) + W[t−7] + SSIG0(W[t−15]) + W[t−16]` (spec/40_compression.md R126). -/
def expandedWord (w : Vector Word64 80) (t : Nat) : Word64 :=
  ssig1 (wordAt w (t - 2)) + wordAt w (t - 7) + ssig0 (wordAt w (t - 15)) + wordAt w (t - 16)

/-- The other 64 schedule words, for t = 16 .. 79 in that order (spec/40_compression.md R126). -/
def expand (w : Vector Word64 80) : Vector Word64 80 :=
  (List.range' 16 64).foldl (fun w t => w.setIfInBounds t (expandedWord w t)) w

/-- The working-register load (spec/40_compression.md R127). -/
def loadWorking (h : HashWords) : Working :=
  { a := h[0], b := h[1], c := h[2], d := h[3], e := h[4], f := h[5], g := h[6], h := h[7] }

/-- `T1` of a round (spec/40_compression.md R128). -/
def temp1 (r : Working) (k w : Word64) : Word64 := r.h + bsig1 r.e + choose r.e r.f r.g + k + w

/-- `T2` of a round (spec/40_compression.md R128). -/
def temp2 (r : Working) : Word64 := bsig0 r.a + majority r.a r.b r.c

/-- The simultaneous update of the eight registers from T1 and T2 (spec/40_compression.md R128). -/
def rotateWorking (r : Working) (t1 t2 : Word64) : Working :=
  { a := t1 + t2, b := r.a, c := r.b, d := r.c, e := r.d + t1, f := r.e, g := r.f, h := r.g }

/-- Round t of the compression unit (spec/40_compression.md R128). -/
def compressRound (ws : Workspace) (t : Nat) : Workspace :=
  let t1 := temp1 ws.regs (roundConstant t) (wordAt ws.w t)
  let t2 := temp2 ws.regs
  { ws with regs := rotateWorking ws.regs t1 t2, t1 := t1, t2 := t2 }

/-- The 80 rounds in order (spec/40_compression.md R129). -/
def compressRounds (ws : Workspace) : Workspace :=
  (List.range 80).foldl compressRound ws

/-- The feed-forward, eight independent additions (spec/40_compression.md R130). -/
def feedForward (h : HashWords) (r : Working) : HashWords :=
  #v[h[0] + r.a, h[1] + r.b, h[2] + r.c, h[3] + r.d, h[4] + r.e, h[5] + r.f, h[6] + r.g, h[7] + r.h]

/-- What the compression unit holds after its 80 rounds on a block (spec/40_compression.md R131). -/
def compressWorkspace (h : HashWords) (B : List Byte) (ws : Workspace) : Workspace :=
  compressRounds { ws with w := expand (ingest B ws.w), regs := loadWorking h }

/-- `C(H, B)`, the compression as a function of H and the block (spec/40_compression.md R131, R132). The workspace it
starts from is overwritten before it is read, so that any may stand here. -/
def compress (h : HashWords) (B : List Byte) (ws : Workspace) : HashWords :=
  feedForward h (compressWorkspace h B ws).regs

end Sys2Proof.Machine
end

