-- ==== Sys2Proof/Machine/Flags.lean ====
section
/-! DEFINITION. STATUS, CTRL, the completion of a command, its acknowledgement and the interrupt line
(spec/10_state.md R24 to R26, spec/60_exceptions.md R250 to R252). -/

namespace Sys2Proof.Machine

/-- The number of an error code (spec/60_exceptions.md R240). -/
def ErrCode.value : ErrCode → BitVec 8
  | .ok        => 0x00
  | .badCmd    => 0x01
  | .finalized => 0x02
  | .length    => 0x03
  | .noCtx     => 0x04
  | .saltCap   => 0x05
  | .addr      => 0x06
  | .bus       => 0x07

/-- The value of FSM (spec/10_state.md R36). -/
def Fsm.value : Fsm → BitVec 2
  | .ready     => 0
  | .absorbing => 1
  | .finalized => 2

/-- The word of STATUS from its fields, reserved bits zero (spec/10_state.md R25). -/
def statusWord (w : Window) (fsm0 fsm1 : BitVec 2) (ctxValid : Bool) : Word32 :=
  (0 : BitVec 8) ++ w.errcode.value ++ (0 : BitVec 7) ++ BitVec.ofBool ctxValid ++ fsm1 ++ fsm0 ++
    BitVec.ofBool w.ovr ++ BitVec.ofBool w.err ++ BitVec.ofBool w.done ++ BitVec.ofBool w.busy

/-- STATUS as the core holds it, the FSM fields and CTX_VALID taken from the data path (spec/10_state.md R25). What a
host read returns while BUSY = 1 is `State.readStatus`. -/
def State.status (s : State) : Word32 :=
  statusWord s.win s.dp.e0.fsm.value s.dp.e1.fsm.value s.dp.ctxValid

/-- The word of CTRL: IRQ_EN in bit 0, the other bits zero (spec/10_state.md R24). -/
def Window.ctrl (w : Window) : Word32 :=
  (0 : BitVec 31) ++ BitVec.ofBool w.irqEn

/-- A host write to STATUS: bits 1 to 3 clear DONE, ERR and OVR where they are 1 (spec/10_state.md R26). -/
def Window.writeStatus (v : Word32) (w : Window) : Window :=
  { w with
    done := w.done && !v.getLsbD 1
    err  := w.err && !v.getLsbD 2
    ovr  := w.ovr && !v.getLsbD 3 }

/-- A host write to CTRL: bit 0 only (spec/10_state.md R24). -/
def Window.writeCtrl (v : Word32) (w : Window) : Window :=
  { w with irqEn := v.getLsbD 0 }

/-- `complete(code)` on the window (spec/60_exceptions.md R250): OVR, CTRL and the operand registers stay. -/
def Window.complete (code : ErrCode) (w : Window) : Window :=
  { w with busy := false, done := true, err := decide (code ≠ .ok), errcode := code }

/-- `complete(code)`, the end of every command (spec/60_exceptions.md R250). The core has no trap: this is all an
error does beside what R246 and R247 say (R241, R249). -/
def State.complete (code : ErrCode) (s : State) : State :=
  { s with win := s.win.complete code }

/-- The interrupt line, IRQ = CTRL.IRQ_EN & STATUS.DONE (spec/60_exceptions.md R252). -/
def State.irq (s : State) : Bool :=
  s.win.irqEn && s.win.done

end Sys2Proof.Machine
end

