-- ==== Sys2Proof/Machine/Ops.lean ====
section
/-! DEFINITION. The named operations on data memory, on the engines and on the whole state: byte reads and writes, free
values, the DMA primitives MemRead and MemWrite (spec/20_memory.md R63, R64), rejection (spec/60_exceptions.md R246),
the E_BUS abort (R247) and the accepted CMD write (spec/10_state.md R27). -/

namespace Sys2Proof.Machine

/-! ### Data memory -/

/-- What an address nothing has written reads as. DESIGN CHOICE, unsafe (log 3): 0x00, the convention of
spec/95_test_vectors.md. -/
def unlistedByte : Byte := 0

/-- The byte at an address. -/
def Memory.read : Memory → Nat → Byte
  | [], _ => unlistedByte
  | (k, v) :: rest, a => if k = a then v else Memory.read rest a

/-- An entry put before the first entry of a higher address. -/
def Memory.insert : Memory → Nat → Byte → Memory
  | [], a, b => [(a, b)]
  | (k, v) :: rest, a, b => if a < k then (a, b) :: (k, v) :: rest else (k, v) :: Memory.insert rest a b

/-- The memory with one byte written, in canonical form: the address's entry goes, and a new one is made unless the byte
is what an unlisted address reads as. -/
def Memory.write (m : Memory) (a : Nat) (b : Byte) : Memory :=
  let others := m.filter fun c => c.1 ≠ a
  if b = unlistedByte then others else Memory.insert others a b

/-- Every entry's address is above `lo` and below 2^32, addresses rise strictly, and no entry holds what an unlisted
address reads as. -/
def Memory.wfFrom : Option Nat → Memory → Bool
  | _, [] => true
  | lo, (k, v) :: rest =>
    (match lo with
      | none => true
      | some l => decide (l < k)) && decide (k < addressSpace) && decide (v ≠ unlistedByte) &&
      Memory.wfFrom (some k) rest

/-- The canonical form of data memory. -/
def Memory.wf (m : Memory) : Bool := Memory.wfFrom none m

/-- The bytes at `a`, `a + 1`, … `a + n − 1`. -/
def Memory.readBytes (m : Memory) (a n : Nat) : List Byte :=
  (List.range n).map fun i => m.read (a + i)

/-- The bytes written from `a` on in increasing address order. Addresses from 2^32 on do not exist and take nothing:
no command reaches them, since its regions are in range (spec/20_memory.md R68). -/
def Memory.writeBytes : Memory → Nat → List Byte → Memory
  | m, _, [] => m
  | m, a, b :: bs =>
    Memory.writeBytes (if a < addressSpace then m.write a b else m) (a + 1) bs

/-! ### Free values -/

/-- `n` bytes drawn one by one from number `k` on (spec/93 U7, U8). -/
def drawnBytes (k n : Nat) : List Byte :=
  (List.range n).map fun i => Config.free Byte (k + i)

/-- An engine after an E_BUS abort: FINALIZED, everything else unspecified, SIZE at any value (spec/60_exceptions.md
R247; log 9). -/
def drawnEngine (k : Nat) : Engine :=
  { h := Config.free HashWords k, buf := Config.free (Vector Byte 128) k, pos := Config.free (BitVec 7) k,
    size := Config.free (BitVec 128) k, fsm := .finalized }

/-- An unspecified snapshot, SIZE at any value (spec/60_exceptions.md R247; log 9). -/
def drawnSnapshot (k : Nat) : Snapshot :=
  { h := Config.free HashWords k, pos := Config.free (BitVec 7) k, size := Config.free (BitVec 128) k }

/-- A region of data memory made unspecified, each byte a draw (spec/20_memory.md R64). -/
def State.drawRegion (r : Region) (s : State) : State :=
  { s with mem := s.mem.writeBytes r.base (drawnBytes s.draws r.size), draws := s.draws + r.size }

/-! ### The DMA port -/

/-- MEM_ADMIT(a) (spec/20_memory.md R60). -/
def Platform.admits (p : Platform) (a : Nat) : Bool :=
  p.memAdmit.any fun r => r.holds a

/-- MEM_ADMIT on every byte of a region. -/
def Platform.admitsRegion (p : Platform) (r : Region) : Bool :=
  (List.range r.size).all fun i => p.admits (r.base + i)

/-- `MemRead(a, n)`: the bytes of a region, or nothing where a byte access meets MEM_ADMIT false and the command aborts
with E_BUS (spec/20_memory.md R63). -/
def State.memRead (r : Region) (s : State) : Option (List Byte) :=
  if s.plat.admitsRegion r then some (s.mem.readBytes r.base r.size) else none

/-- `MemWrite(a, n, B)`: the state with the bytes written, or, as an error, the state in which the whole region is
unspecified and the command aborts with E_BUS (spec/20_memory.md R64). -/
def State.memWrite (a : Nat) (bytes : List Byte) (s : State) : Except State State :=
  if s.plat.admitsRegion ⟨a, bytes.length⟩ then .ok { s with mem := s.mem.writeBytes a bytes }
  else .error (s.drawRegion ⟨a, bytes.length⟩)

/-! ### Engines and the compression unit -/

/-- Engine E[e] (spec/00_scope.md R11). -/
def Datapath.engine (e : EngineId) (d : Datapath) : Engine :=
  match e with
  | .e0 => d.e0
  | .e1 => d.e1

/-- The data path with engine E[e] replaced. -/
def Datapath.setEngine (e : EngineId) (x : Engine) (d : Datapath) : Datapath :=
  match e with
  | .e0 => { d with e0 := x }
  | .e1 => { d with e1 := x }

/-- The scratch replaced by unspecified contents (spec/60_exceptions.md R247). -/
def Datapath.dropScratch (k : Nat) (d : Datapath) : Datapath :=
  { d with scratch := Config.free Scratch k }

/-! ### Rejection and abort -/

/-- A command rejected at steps 1 to 6 of spec/60_exceptions.md R244: nothing changes but STATUS (R246). -/
def State.reject (code : ErrCode) (s : State) : State :=
  s.complete code

/-- The E_BUS abort of a HASH_* command: the engine it uses is FINALIZED and unspecified, the scratch is unspecified,
nothing else changes (spec/60_exceptions.md R247). -/
def State.abortHash (e : EngineId) (s : State) : State :=
  { s with dp := (s.dp.setEngine e (drawnEngine s.draws)).dropScratch s.draws, draws := s.draws + 1 }.complete .bus

/-- The E_BUS abort of MAC_COMPUTE: both engines are FINALIZED and unspecified; the context stays
(spec/60_exceptions.md R247). -/
def State.abortMac (s : State) : State :=
  { s with
    dp := ({ s.dp with e0 := drawnEngine s.draws, e1 := drawnEngine (s.draws + 1) } : Datapath).dropScratch s.draws
    draws := s.draws + 2 }.complete .bus

/-- The E_BUS abort of MAC_INIT and DERIVE_KEY: both engines FINALIZED and unspecified, CTX_I and CTX_O unspecified,
CTX_VALID = 0, AUX_LEN not updated (spec/60_exceptions.md R247). -/
def State.abortContext (s : State) : State :=
  { s with
    dp := ({ s.dp with e0 := drawnEngine s.draws, e1 := drawnEngine (s.draws + 1),
                       ctxI := drawnSnapshot (s.draws + 2), ctxO := drawnSnapshot (s.draws + 3),
                       ctxValid := false } : Datapath).dropScratch s.draws
    draws := s.draws + 4 }.complete .bus

/-! ### Issue -/

/-- The operand registers and the command word, copied into the latch (spec/10_state.md R27). -/
def Window.latched (cmd : Word32) (w : Window) : Latch :=
  { cmd := cmd, srcAddr := w.srcAddr, srcLen := w.srcLen, dstAddr := w.dstAddr, auxAddr := w.auxAddr,
    auxLen := w.auxLen, auxCap := w.auxCap, iter := w.iter }

/-- An accepted CMD write: the latch is loaded, BUSY is set, and DONE, ERR and ERRCODE are cleared
(spec/10_state.md R27). -/
def State.issue (cmd : Word32) (s : State) : State :=
  { s with
    latch := s.win.latched cmd
    win := { s.win with busy := true, done := false, err := false, errcode := .ok } }

end Sys2Proof.Machine
end

