-- ==== Sys2Proof/Machine/HashEngine.lean ====
section
/-! DEFINITION. The hash engine's internal operations EngineInit, Absorb, Finalize and Digest
(spec/41_hash_engine.md R157 to R160) and the meanings of HASH_INIT, HASH_UPDATE, HASH_FINALIZE and HASH_ONESHOT
(R161 to R164). -/

namespace Sys2Proof.Machine

/-- An engine at work: the engine, the compression unit's workspace (spec/10_state.md R40; log 24) and the work
measure. -/
structure Lane where
  eng   : Engine
  ws    : Workspace
  count : Nat
deriving DecidableEq, Repr, Inhabited

/-- Engine E[e] with the compression unit. DESIGN CHOICE (log 24): the core has one compression unit and one workspace,
the single W, a to h, T1 and T2 of spec/10_state.md R20 and R40, which the engine at work has to itself; R37 says that
each engine owns its workspace exclusively, which a workspace per engine would say too. -/
def Datapath.lane (e : EngineId) (d : Datapath) : Lane :=
  { eng := d.engine e, ws := d.scratch.ws, count := d.compressions }

/-- The engine and the compression unit put back. -/
def Datapath.putLane (e : EngineId) (l : Lane) (d : Datapath) : Datapath :=
  { d.setEngine e l.eng with scratch := { d.scratch with ws := l.ws }, compressions := l.count }

/-- An operation of engine E[e]; the other engine and the context stay (spec/10_state.md R37). -/
def Datapath.onEngine (e : EngineId) (f : Lane → Lane) (d : Datapath) : Datapath :=
  d.putLane e (f (d.lane e))

/-- `Compress(E, B)`: H and the workspace change; BUF, POS, SIZE and FSM do not (spec/40_compression.md R131). -/
def Lane.compress (B : List Byte) (l : Lane) : Lane :=
  { eng := { l.eng with h := Machine.compress l.eng.h B l.ws }
    ws := compressWorkspace l.eng.h B l.ws
    count := l.count + 1 }

/-- `BUF[p..p+len(bs)−1] <- bs`, within the 128 bytes of BUF. -/
def bufWrite (buf : Vector Byte 128) (p : Nat) (bs : List Byte) : Vector Byte 128 :=
  ⟨(buf.toList.take p ++ bs.take (128 - p) ++ buf.toList.drop (p + bs.length)).toArray, by simp; omega⟩

/-- `BUF[p..p+len(bs)−1] <- bs` in an engine. -/
def Lane.bufWrite (p : Nat) (bs : List Byte) (l : Lane) : Lane :=
  { l with eng := { l.eng with buf := Machine.bufWrite l.eng.buf p bs } }

/-- `POS <- p`, in the 7-bit register. -/
def Lane.setPos (p : Nat) (l : Lane) : Lane :=
  { l with eng := { l.eng with pos := BitVec.ofNat 7 p } }

/-- `EngineInit(E)`: BUF stays (spec/41_hash_engine.md R160). -/
def Lane.init (l : Lane) : Lane :=
  { l with eng := { l.eng with h := iv, pos := 0, size := 0, fsm := .ready } }

/-- `k` whole blocks compressed directly from the input (spec/41_hash_engine.md R157). -/
def Lane.compressBlocks : Nat → List Byte → Lane → Lane
  | 0, _, l => l
  | k + 1, M, l => Lane.compressBlocks k (M.drop 128) (l.compress (M.take 128))

/-- The `while n − i >= 128` loop of `Absorb`: every whole block of the rest is compressed; what is left is returned
(spec/41_hash_engine.md R157). -/
def Lane.absorbBlocks (M : List Byte) (l : Lane) : Lane × List Byte :=
  let k := M.length / 128
  (l.compressBlocks k M, M.drop (128 * k))

/-- The `if`/`else` of `Absorb`, up to the buffering of the remainder (spec/41_hash_engine.md R157). -/
def Lane.absorbHead (M : List Byte) (l : Lane) : Lane × List Byte :=
  let p := l.eng.pos.toNat
  if p = 0 then l.absorbBlocks M
  else
    let k := min (128 - p) M.length
    let filled := l.bufWrite p (M.take k)
    if p + k = 128 then
      ((filled.compress filled.eng.buf.toList).setPos 0).absorbBlocks (M.drop k)
    else (filled.setPos (p + k), M.drop k)

/-- The end of `Absorb`: the remainder is buffered, SIZE counts the whole input of `n` bytes, FSM is ABSORBING
(spec/41_hash_engine.md R157). -/
def Lane.absorbTail (R : List Byte) (n : Nat) (l : Lane) : Lane :=
  let p := l.eng.pos.toNat
  let l' := (l.bufWrite p R).setPos (p + R.length)
  { l' with eng := { l'.eng with size := l'.eng.size + BitVec.ofNat 128 n, fsm := .absorbing } }

/-- `Absorb(E, M)` (spec/41_hash_engine.md R157). -/
def Lane.absorb (M : List Byte) (l : Lane) : Lane :=
  let (l', R) := l.absorbHead M
  l'.absorbTail R M.length

/-- The marker and, where the length does not fit, the first padding block of `Finalize`; POS is left at the next free
index of BUF, 0 to 112 (spec/41_hash_engine.md R158). -/
def Lane.finalizeHead (l : Lane) : Lane :=
  let p := l.eng.pos.toNat
  let marked := l.bufWrite p [0x80]
  if p + 1 > 112 then
    let full := marked.bufWrite (p + 1) (List.replicate (128 - (p + 1)) 0)
    (full.compress full.eng.buf.toList).setPos 0
  else marked.setPos (p + 1)

/-- The last padding block of `Finalize`: zero fill to 111, then the bit length `SIZE * 8` in 16 big-endian bytes, then
POS = 0 and FSM = FINALIZED; SIZE stays (spec/41_hash_engine.md R158). -/
def Lane.finalizeTail (l : Lane) : Lane :=
  let p := l.eng.pos.toNat
  let filled := l.bufWrite p (List.replicate (112 - p) 0)
  let block := filled.bufWrite 112 (beBytes 16 (BitVec.ofNat 128 (l.eng.size.toNat * 8)))
  let done := block.compress block.eng.buf.toList
  { done with eng := { done.eng with pos := 0, fsm := .finalized } }

/-- `Finalize(E)`, less the digest it returns, which is `digest` of the engine it leaves (spec/41_hash_engine.md
R158). -/
def Lane.finalize (l : Lane) : Lane :=
  l.finalizeHead.finalizeTail

/-- `Digest(E)`: byte 8i + j is H[i][63−8j : 56−8j] (spec/41_hash_engine.md R159). -/
def digest (h : HashWords) : Vector Byte 64 :=
  Vector.ofFn fun k => (h[k.val / 8]'(by omega)).extractLsb' (56 - 8 * (k.val % 8)) 8

/-- The digest an engine holds. -/
def Datapath.digest (e : EngineId) (d : Datapath) : Vector Byte 64 :=
  Machine.digest (d.engine e).h

/-! ### Commands -/

/-- HASH_INIT (spec/41_hash_engine.md R161). -/
def execHashInit (e : EngineId) (s : State) : Host.Outcome State Fault Refusal :=
  .next ({ s with dp := s.dp.onEngine e Lane.init }.complete .ok)

/-- HASH_UPDATE (spec/41_hash_engine.md R162). -/
def execHashUpdate (e : EngineId) (s : State) : Host.Outcome State Fault Refusal :=
  .next <|
    if (s.dp.engine e).fsm = .finalized then s.reject .finalized
    else if (s.dp.engine e).size.toNat + s.latch.srcLen.toNat > sizeMax then s.reject .length
    else if !s.latch.src.inRange then s.reject .addr
    else
      match s.memRead s.latch.src with
      | none => s.abortHash e
      | some M => { s with dp := s.dp.onEngine e (Lane.absorb M) }.complete .ok

/-- HASH_FINALIZE (spec/41_hash_engine.md R163). -/
def execHashFinalize (e : EngineId) (s : State) : Host.Outcome State Fault Refusal :=
  .next <|
    if (s.dp.engine e).fsm = .finalized then s.reject .finalized
    else if !s.latch.dst.inRange then s.reject .addr
    else
      let dp := s.dp.onEngine e Lane.finalize
      match { s with dp := dp }.memWrite s.latch.dst.base (dp.digest e).toList with
      | .error s' => s'.abortHash e
      | .ok s' => s'.complete .ok

/-- HASH_ONESHOT (spec/41_hash_engine.md R164). -/
def execHashOneshot (e : EngineId) (s : State) : Host.Outcome State Fault Refusal :=
  .next <|
    if !s.latch.src.inRange || !s.latch.dst.inRange then s.reject .addr
    else
      match s.memRead s.latch.src with
      | none => s.abortHash e
      | some M =>
        let dp := s.dp.onEngine e fun l => ((l.init).absorb M).finalize
        match { s with dp := dp }.memWrite s.latch.dst.base (dp.digest e).toList with
        | .error s' => s'.abortHash e
        | .ok s' => s'.complete .ok

end Sys2Proof.Machine
end

