-- ==== Sys2Proof/Machine/KeyedMac.lean ====
section
/-! DEFINITION. The keyed MAC's internal operations KeyBlock, PadAbsorb, Snapshot, Clone and MacTag
(spec/42_keyed_mac.md R191 to R196) and the meanings of MAC_INIT, MAC_CLONE and MAC_COMPUTE (R197 to R199). -/

namespace Sys2Proof.Machine

/-- `KB <- KeyBlock(K)`: a key longer than 128 bytes is condensed on E0, any other is zero-padded
(spec/42_keyed_mac.md R191). -/
def Datapath.keyBlock (K : List Byte) (d : Datapath) : Datapath :=
  if K.length > 128 then
    let d' := d.onEngine .e0 fun l => ((l.init).absorb K).finalize
    { d' with scratch := { d'.scratch with kb := zeroPadded 128 (d'.digest .e0).toList } }
  else { d with scratch := { d.scratch with kb := zeroPadded 128 K } }

/-- KB XOR the byte `x` repeated 128 times: the inner pad for 0x36, the outer for 0x5c (spec/42_keyed_mac.md R192). -/
def pad (x : Byte) (kb : Vector Byte 128) : List Byte :=
  kb.toList.map fun b => b ^^^ x

/-- `PadAbsorb(KB ^ 0x36^128, KB ^ 0x5c^128)` (spec/42_keyed_mac.md R192, R193). -/
def Datapath.padAbsorb (d : Datapath) : Datapath :=
  let kb := d.scratch.kb
  (d.onEngine .e0 fun l => (l.init).absorb (pad 0x36 kb)).onEngine .e1 fun l => (l.init).absorb (pad 0x5c kb)

/-- What a snapshot register takes of an engine (spec/42_keyed_mac.md R194). -/
def Engine.snapshot (x : Engine) : Snapshot :=
  { h := x.h, pos := x.pos, size := x.size }

/-- `Snapshot()`: CTX_I from E0, CTX_O from E1 (spec/42_keyed_mac.md R194). -/
def Datapath.snapshot (d : Datapath) : Datapath :=
  { d with ctxI := d.e0.snapshot, ctxO := d.e1.snapshot }

/-- The context of a key, built in CTX_I and CTX_O; CTX_VALID is the command's to set (spec/42_keyed_mac.md R197). -/
def Datapath.buildContext (K : List Byte) (d : Datapath) : Datapath :=
  (d.keyBlock K).padAbsorb.snapshot

/-- `Clone(S, E)`: a value copy, FSM = ABSORBING; BUF stays (spec/42_keyed_mac.md R195). -/
def Engine.cloneFrom (S : Snapshot) (x : Engine) : Engine :=
  { x with h := S.h, pos := S.pos, size := S.size, fsm := .absorbing }

/-- `Clone(S, E)` in the data path. -/
def Datapath.clone (S : Snapshot) (e : EngineId) (d : Datapath) : Datapath :=
  d.setEngine e ((d.engine e).cloneFrom S)

/-- The inner half of `MacTag(M)`: IDIG is the digest of E0 (spec/42_keyed_mac.md R196). -/
def Datapath.macInner (M : List Byte) (d : Datapath) : Datapath :=
  let d' := (d.clone d.ctxI .e0).onEngine .e0 fun l => (l.absorb M).finalize
  { d' with scratch := { d'.scratch with idig := d'.digest .e0 } }

/-- The outer half of `MacTag(M)`: it absorbs IDIG in E1 (spec/42_keyed_mac.md R196). -/
def Datapath.macOuter (d : Datapath) : Datapath :=
  let idig := d.scratch.idig.toList
  (d.clone d.ctxO .e1).onEngine .e1 fun l => (l.absorb idig).finalize

/-- `MacTag(M)`, less the tag it returns, which is `Datapath.digest .e1` of what it leaves (spec/42_keyed_mac.md
R196). -/
def Datapath.macTag (M : List Byte) (d : Datapath) : Datapath :=
  (d.macInner M).macOuter

/-- CTX_VALID <- 1. -/
def Datapath.validate (d : Datapath) : Datapath :=
  { d with ctxValid := true }

/-! ### Commands -/

/-- MAC_INIT (spec/42_keyed_mac.md R197). -/
def execMacInit (s : State) : Host.Outcome State Fault Refusal :=
  .next <|
    if !s.latch.src.inRange then s.reject .addr
    else
      match s.memRead s.latch.src with
      | none => s.abortContext
      | some K => { s with dp := (s.dp.buildContext K).validate }.complete .ok

/-- MAC_CLONE (spec/42_keyed_mac.md R198). -/
def execMacClone (s : State) : Host.Outcome State Fault Refusal :=
  .next <|
    if !s.dp.ctxValid then s.reject .noCtx
    else { s with dp := (s.dp.clone s.dp.ctxI .e0).clone s.dp.ctxO .e1 }.complete .ok

/-- MAC_COMPUTE (spec/42_keyed_mac.md R199). -/
def execMacCompute (s : State) : Host.Outcome State Fault Refusal :=
  .next <|
    if !s.dp.ctxValid then s.reject .noCtx
    else if !s.latch.src.inRange || !s.latch.dst.inRange then s.reject .addr
    else
      match s.memRead s.latch.src with
      | none => s.abortMac
      | some M =>
        let dp := s.dp.macTag M
        match { s with dp := dp }.memWrite s.latch.dst.base (dp.digest .e1).toList with
        | .error s' => s'.abortMac
        | .ok s' => s'.complete .ok

end Sys2Proof.Machine
end

