-- ==== Sys2Proof/Machine/KeyStretcher.lean ====
section
/-! DEFINITION. The key stretcher's iteration loop (spec/43_key_stretcher.md R225) and the meaning of DERIVE_KEY
(R226). -/

namespace Sys2Proof.Machine

/-- The block index, `BE32_BYTES(1)` = 00 00 00 01 (spec/43_key_stretcher.md R222, R223). -/
def counterBytes : List Byte := beBytes 4 (1 : Word32)

/-- The bytewise XOR of two 64-byte registers (spec/43_key_stretcher.md R225). -/
def xorBytes (x y : Vector Byte 64) : Vector Byte 64 :=
  Vector.zipWith (fun a b => a ^^^ b) x y

/-- `U <- MacTag(M)`. -/
def Datapath.nextU (M : List Byte) (d : Datapath) : Datapath :=
  let d' := d.macTag M
  { d' with scratch := { d'.scratch with u := d'.digest .e1 } }

/-- The start of `Stretch`: U1, ACC = U1 and ICNT = 2 (spec/43_key_stretcher.md R225). -/
def Datapath.stretchStart (S : List Byte) (d : Datapath) : Datapath :=
  let d' := d.nextU S
  { d' with scratch := { d'.scratch with acc := d'.scratch.u, icnt := 2 } }

/-- One pass of the loop of `Stretch`: U becomes the MAC of the previous U, ACC takes it in, ICNT counts
(spec/43_key_stretcher.md R225). DESIGN CHOICE (log 25): where R225 counts to 2^32, the 32-bit ICNT of spec/10_state.md R40
wraps to 0. -/
def Datapath.stretchStep (d : Datapath) : Datapath :=
  let d' := d.nextU d.scratch.u.toList
  { d' with
    scratch := { d'.scratch with acc := xorBytes d'.scratch.acc d'.scratch.u, icnt := d'.scratch.icnt + 1 } }

/-- The loop's passes, `n` of them. -/
def Datapath.stretchLoop : Nat → Datapath → Datapath
  | 0, d => d
  | n + 1, d => Datapath.stretchLoop n d.stretchStep

/-- `Stretch(S, c)`, less the result it returns, which is ACC: the loop runs for ICNT = 2 .. c, so not at all for
c = 0 and c = 1 (spec/43_key_stretcher.md R224, R225). The number of passes is a natural number, and no test reads the
register ICNT (log 25). -/
def Datapath.stretch (S : List Byte) (c : Nat) (d : Datapath) : Datapath :=
  (d.stretchStart S).stretchLoop (c - 1)

/-- AUX_LEN <- L_AUX_LEN + 4 and CTX_VALID <- 1, the end of a successful DERIVE_KEY (spec/43_key_stretcher.md
R226). -/
def State.deriveEnd (s : State) : State :=
  { s with win := { s.win with auxLen := s.latch.auxLen + 4 }, dp := s.dp.validate }

/-- DERIVE_KEY (spec/43_key_stretcher.md R226). -/
def execDeriveKey (s : State) : Host.Outcome State Fault Refusal :=
  .next <|
    if s.latch.saltTooLong then s.reject .saltCap
    else if !s.latch.src.inRange || !s.latch.dst.inRange || !s.latch.salt.inRange then s.reject .addr
    else
      match s.memRead s.latch.src with
      | none => s.abortContext
      | some P =>
        match { s with dp := s.dp.buildContext P }.memWrite s.latch.counter.base counterBytes with
        | .error s1 => s1.abortContext
        | .ok s1 =>
          match s1.memRead s.latch.salt with
          | none => s1.abortContext
          | some S =>
            let dp := s1.dp.stretch S s.latch.iter.toNat
            match { s1 with dp := dp }.memWrite s.latch.dst.base dp.scratch.acc.toList with
            | .error s2 => s2.abortContext
            | .ok s2 => s2.deriveEnd.complete .ok

end Sys2Proof.Machine
end

