-- ==== Sys2Proof/Machine/Dispatch.lean ====
section
/-! DEFINITION. The meaning of every command: one arm per constructor of Instr, one direct call each. -/

namespace Sys2Proof.Machine

def exec (i : Instr) (s : State) : Host.Outcome State Fault Refusal :=
  match i with
  | .hashInit eng => Sys2Proof.Machine.execHashInit eng s
  | .hashUpdate eng => Sys2Proof.Machine.execHashUpdate eng s
  | .hashFinalize eng => Sys2Proof.Machine.execHashFinalize eng s
  | .hashOneshot eng => Sys2Proof.Machine.execHashOneshot eng s
  | .macInit => Sys2Proof.Machine.execMacInit s
  | .macClone => Sys2Proof.Machine.execMacClone s
  | .macCompute => Sys2Proof.Machine.execMacCompute s
  | .deriveKey => Sys2Proof.Machine.execDeriveKey s

end Sys2Proof.Machine
end

