-- ==== Sys2Proof/WellFormed.lean ====
section
/-! DEFINITION. Which command fields are legal (spec/30_encoding.md R90, R94), and the fields of a command. An
`Instr` carries nothing but an engine number, so an ill-formed command can only be written as `CmdFields`. -/

namespace Sys2Proof

/-- The four opcodes whose ENG bit selects an engine (spec/30_encoding.md R91, R93). -/
def CmdFields.isHashOpcode (c : CmdFields) : Bool :=
  c.opcode == 0x01 || c.opcode == 0x02 || c.opcode == 0x03 || c.opcode == 0x04

/-- RSVD = 0 (spec/30_encoding.md R90). -/
def CmdFields.reservedClear (c : CmdFields) : Bool :=
  c.rsvd == 0

/-- The OPCODE is one of the eight of spec/30_encoding.md R93. -/
def CmdFields.opcodeKnown (c : CmdFields) : Bool :=
  c.isHashOpcode || c.opcode == 0x10 || c.opcode == 0x11 || c.opcode == 0x12 || c.opcode == 0x20

/-- ENG = 0 unless the command is a HASH_* command (spec/30_encoding.md R90, R91). -/
def CmdFields.engineBitAllowed (c : CmdFields) : Bool :=
  c.eng == 0 || c.isHashOpcode

/-- A legal command word: none of the three conditions of spec/30_encoding.md R94 holds. -/
def CmdFields.wellFormed (c : CmdFields) : Bool :=
  c.reservedClear && c.opcodeKnown && c.engineBitAllowed

/-- The ENG bit of an engine number (spec/30_encoding.md R90). -/
def EngineId.bit : EngineId → BitVec 1
  | .e0 => 0
  | .e1 => 1

/-- The fields of a command's word (spec/30_encoding.md R93). -/
def Instr.fields : Instr → CmdFields
  | .hashInit eng     => ⟨0, eng.bit, 0x01⟩
  | .hashUpdate eng   => ⟨0, eng.bit, 0x02⟩
  | .hashFinalize eng => ⟨0, eng.bit, 0x03⟩
  | .hashOneshot eng  => ⟨0, eng.bit, 0x04⟩
  | .macInit          => ⟨0, 0, 0x10⟩
  | .macClone         => ⟨0, 0, 0x11⟩
  | .macCompute       => ⟨0, 0, 0x12⟩
  | .deriveKey        => ⟨0, 0, 0x20⟩

/-- A command is well-formed when its fields are legal. -/
def Instr.wellFormed (i : Instr) : Bool := i.fields.wellFormed

end Sys2Proof
end

