-- ==== Sys2Proof/Decode.lean ====
section
/-! DEFINITION. The decoder of command words (spec/30_encoding.md R95), total on every 32-bit word and rejecting
by name, and the encoder (R90, R93). The words of each row are written out in Sys2Proof/Tests/Slice0.lean. -/

namespace Sys2Proof

/-- The fields of a word: `w[31:9]`, `w[8]`, `w[7:0]` (spec/30_encoding.md R90). -/
def fieldsOf (w : Word32) : CmdFields :=
  { rsvd := w.extractLsb' 9 23, eng := w.extractLsb' 8 1, opcode := w.extractLsb' 0 8 }

/-- The word of given fields (spec/30_encoding.md R90). -/
def wordOf (c : CmdFields) : Word32 :=
  (c.rsvd ++ c.eng) ++ c.opcode

/-- The engine a one-bit ENG field selects (spec/30_encoding.md R91). -/
def engineOf (b : BitVec 1) : EngineId :=
  if b = 0 then .e0 else .e1

/-- A command without an engine: ENG = 1 makes its word illegal (spec/30_encoding.md R94, R95). -/
def engineFree (c : CmdFields) (i : Instr) : Decoded :=
  if c.eng = 0 then .command i else .illegal .engineBit

/-- The decoding of fields, in the order of spec/30_encoding.md R95. -/
def decodeFields (c : CmdFields) : Decoded :=
  if c.rsvd ≠ 0 then .illegal .reservedBits
  else if c.opcode = 0x01 then .command (.hashInit (engineOf c.eng))
  else if c.opcode = 0x02 then .command (.hashUpdate (engineOf c.eng))
  else if c.opcode = 0x03 then .command (.hashFinalize (engineOf c.eng))
  else if c.opcode = 0x04 then .command (.hashOneshot (engineOf c.eng))
  else if c.opcode = 0x10 then engineFree c .macInit
  else if c.opcode = 0x11 then engineFree c .macClone
  else if c.opcode = 0x12 then engineFree c .macCompute
  else if c.opcode = 0x20 then engineFree c .deriveKey
  else .illegal .unknownOpcode

/-- `decode(w)` of spec/30_encoding.md R95: a total function from every 32-bit word. -/
def decode (w : Word32) : Decoded :=
  decodeFields (fieldsOf w)

/-- `word(M, N)` of spec/30_encoding.md R93 and R98: the one word of a command. -/
def encode (i : Instr) : Word32 :=
  wordOf i.fields

/-- The instruction of a table word of `nbits` bits: the low `nbits` bits of `w`, the bits above zero, read as the
one 32-bit command word (spec/30_encoding.md R96). A number that is no 32-bit word is no command. -/
def decodeTableWord (nbits w : Nat) : Option Instr :=
  let v := w % 2 ^ nbits
  if v < 2 ^ 32 then
    match decode (BitVec.ofNat 32 v) with
    | .command i => some i
    | .illegal _ => none
  else none

end Sys2Proof
end

