-- ==== Sys2Proof/Machine/HostPort.lean ====
section
/-! DEFINITION. The host's side: the register window (spec/10_state.md R21 to R30), host accesses to data memory
(spec/20_memory.md R72), the notation of host programs (spec/30_encoding.md R98, R99) and the reset event
(spec/70_reset_and_hazards.md R270, R271). -/

namespace Sys2Proof.Machine

/-- The eleven registers of the window (spec/10_state.md R21). -/
inductive Reg where
  | id
  | ctrl
  | status
  | cmd
  | srcAddr
  | srcLen
  | dstAddr
  | auxAddr
  | auxLen
  | auxCap
  | iter
deriving DecidableEq, Repr, Inhabited

/-- The offset of a register (spec/10_state.md R21). -/
def Reg.offset : Reg → Nat
  | .id      => 0x00
  | .ctrl    => 0x04
  | .status  => 0x08
  | .cmd     => 0x0C
  | .srcAddr => 0x10
  | .srcLen  => 0x14
  | .dstAddr => 0x18
  | .auxAddr => 0x1C
  | .auxLen  => 0x20
  | .auxCap  => 0x24
  | .iter    => 0x28

/-- The register at an offset; none at the reserved offsets 0x2C to 0xFC (spec/10_state.md R21). -/
def Reg.at? (off : Nat) : Option Reg :=
  [Reg.id, .ctrl, .status, .cmd, .srcAddr, .srcLen, .dstAddr, .auxAddr, .auxLen, .auxCap, .iter].find?
    fun r => r.offset == off

/-- The size of the window in bytes (spec/10_state.md R21). -/
def windowBytes : Nat := 256

/-- ID reads 0x53353132 (spec/10_state.md R23). -/
def idValue : Word32 := 0x53353132

/-- What a host access names: an offset of the window, or the reason the model refuses it (spec/10_state.md R22,
spec/20_memory.md R66). -/
def Platform.windowOffset (p : Platform) (addr : Nat) (width : Width) : Except Refusal Nat :=
  if addr < p.regBase ∨ p.regBase + windowBytes ≤ addr then .error (.outsideWindow addr)
  else if width ≠ .word ∨ (addr - p.regBase) % 4 ≠ 0 then .error (.registerAccess addr)
  else .ok (addr - p.regBase)

/-! ### Reads -/

/-- A read of STATUS. While BUSY = 1 the fields E0_FSM, E1_FSM and CTX_VALID are draws (spec/10_state.md R25). -/
def State.readStatus (s : State) : Word32 × State :=
  if s.win.busy then
    (statusWord s.win (Config.free (BitVec 2) s.draws) (Config.free (BitVec 2) (s.draws + 1))
        (Config.free Bool s.draws),
      { s with draws := s.draws + 2 })
  else (s.status, s)

/-- The value a host read of a register returns, and the state after it: only a STATUS read during BUSY draws values,
and no read has a side effect on the core (spec/10_state.md R22, R25). -/
def State.readReg (r : Option Reg) (s : State) : Word32 × State :=
  match r with
  | none          => (0, s)
  | some .id      => (idValue, s)
  | some .ctrl    => (s.win.ctrl, s)
  | some .status  => s.readStatus
  | some .cmd     => (0, s)
  | some .srcAddr => (s.win.srcAddr, s)
  | some .srcLen  => (s.win.srcLen, s)
  | some .dstAddr => (s.win.dstAddr, s)
  | some .auxAddr => (s.win.auxAddr, s)
  | some .auxLen  => (s.win.auxLen, s)
  | some .auxCap  => (s.win.auxCap, s)
  | some .iter    => (s.win.iter, s)

/-- The value a host read returned, recorded. -/
def State.got (x : HostRead) (s : State) : State :=
  { s with host := { s.host with reads := x :: s.host.reads } }

/-! ### Writes -/

/-- A host write to CMD: accepted when BUSY = 0; while BUSY = 1 it sets OVR and is otherwise ignored
(spec/10_state.md R27). -/
def State.writeCmd (v : Word32) (s : State) : State :=
  if s.win.busy then { s with win := { s.win with ovr := true } } else s.issue v

/-- A host write of a register; ID and the reserved offsets ignore it (spec/10_state.md R22 to R30). -/
def State.writeReg (r : Option Reg) (v : Word32) (s : State) : State :=
  match r with
  | none          => s
  | some .id      => s
  | some .ctrl    => { s with win := s.win.writeCtrl v }
  | some .status  => { s with win := s.win.writeStatus v }
  | some .cmd     => s.writeCmd v
  | some .srcAddr => { s with win := { s.win with srcAddr := v } }
  | some .srcLen  => { s with win := { s.win with srcLen := v } }
  | some .dstAddr => { s with win := { s.win with dstAddr := v } }
  | some .auxAddr => { s with win := { s.win with auxAddr := v } }
  | some .auxLen  => { s with win := { s.win with auxLen := v } }
  | some .auxCap  => { s with win := { s.win with auxCap := v } }
  | some .iter    => { s with win := { s.win with iter := v } }

/-! ### Data memory -/

/-- The read set of the running command: none while BUSY = 0 and for an illegal word (spec/20_memory.md R69, R72). -/
def State.runningReadSet (s : State) : List Region :=
  if s.win.busy then
    match decode s.latch.cmd with
    | .command i => readSet s.latch i
    | .illegal _ => []
  else []

/-- The write set of the running command: none while BUSY = 0 and for an illegal word (spec/20_memory.md R69, R72). -/
def State.runningWriteSet (s : State) : List Region :=
  if s.win.busy then
    match decode s.latch.cmd with
    | .command i => writeSet s.latch i
    | .illegal _ => []
  else []

/-- A host read of one byte of data memory; a byte of the running command's write set is a draw
(spec/20_memory.md R72). -/
def State.hostMemRead (a : Word32) (s : State) : Host.Outcome State Fault Refusal :=
  if !s.plat.admits a.toNat then .fault (.noSuchAddress a.toNat)
  else if anyHolds s.runningWriteSet a.toNat then
    .next ({ s with draws := s.draws + 1 }.got (.mem a (Config.free Byte s.draws)))
  else .next (s.got (.mem a (s.mem.read a.toNat)))

/-- A host write of one byte of data memory; in the running command's footprint it is MEM_RACE
(spec/20_memory.md R72). -/
def State.hostMemWrite (a : Word32) (b : Byte) (s : State) : Host.Outcome State Fault Refusal :=
  if !s.plat.admits a.toNat then .fault (.noSuchAddress a.toNat)
  else if anyHolds (s.runningReadSet ++ s.runningWriteSet) a.toNat then .fault (.memRace a.toNat)
  else .next { s with mem := s.mem.write a.toNat b }

/-! ### Host steps -/

/-- The host's next operation taken off its list. -/
def State.popOp (s : State) : State :=
  { s with host := { s.host with ops := s.host.ops.tail } }

/-- A host read of the register window. -/
def State.hostRegRead (addr : Nat) (width : Width) (s : State) : Host.Outcome State Fault Refusal :=
  match s.plat.windowOffset addr width with
  | .error r => .refused r
  | .ok off =>
    let (v, s') := s.readReg (Reg.at? off)
    .next (s'.got (.reg addr v))

/-- A host write of the register window. -/
def State.hostRegWrite (addr : Nat) (width : Width) (v : Word32) (s : State) : Host.Outcome State Fault Refusal :=
  match s.plat.windowOffset addr width with
  | .error r => .refused r
  | .ok off => .next (s.writeReg (Reg.at? off) v)

/-- One poll of `wait`: STATUS is read, and the wait stays the host's next operation while the value has bit 0 = 1
(spec/30_encoding.md R99). -/
def State.hostPoll (s : State) : State :=
  let (v, s1) := s.readStatus
  let s2 := s1.got (.reg (s.plat.regBase + Reg.status.offset) v)
  if v.getLsbD 0 then s2 else s2.popOp

/-- One host step (spec/70_reset_and_hazards.md R285). A host with nothing to do leaves the machine as it is. -/
def State.hostStep (s : State) : Host.Outcome State Fault Refusal :=
  match s.host.ops with
  | []                        => .next s
  | .regRead addr width :: _    => s.popOp.hostRegRead addr width
  | .regWrite addr width v :: _ => s.popOp.hostRegWrite addr width v
  | .memRead a :: _             => s.popOp.hostMemRead a
  | .memWrite a b :: _          => s.popOp.hostMemWrite a b
  | .wait :: _                  => .next s.hostPoll

/-! ### Reset -/

/-- Each region made unspecified in turn. -/
def State.drawRegions : List Region → State → State
  | [], s => s
  | r :: rs, s => State.drawRegions rs (s.drawRegion r)

/-- The reset event (spec/70_reset_and_hazards.md R270): every piece of the core's state at its value of
spec/10_state.md R43, the latch and the scratch unspecified; a command that was BUSY is abandoned and its write set is
unspecified (R271). Other data memory, the platform and the host's side stay. -/
def State.resetEvent (s : State) : State :=
  let s' := State.drawRegions s.runningWriteSet s
  { s' with
    win := Window.reset
    latch := Config.free Latch s'.draws
    dp := { Datapath.reset with scratch := Config.free Scratch s'.draws }
    draws := s'.draws + 1 }

/-! ### Host programs (spec/30_encoding.md R98, R99) -/

/-- `wr REG, imm32` with the window at `base`. -/
def wr (base : Nat) (r : Reg) (v : Word32) : HostOp := .regWrite (base + r.offset) .word v

/-- `rd REG` with the window at `base`. -/
def rd (base : Nat) (r : Reg) : HostOp := .regRead (base + r.offset) .word

/-- `cmd MNEMONIC[, eN]`. -/
def issueOp (base : Nat) (i : Instr) : HostOp := wr base .cmd (encode i)

/-- `ack`: clear DONE, ERR and OVR. -/
def ackOp (base : Nat) : HostOp := wr base .status 0x0000000E

/-- `run M[, eN]`: issue a command and wait for it. -/
def runOps (base : Nat) (i : Instr) : List HostOp := [issueOp base i, .wait]

/-- `src A, N`. -/
def srcOps (base : Nat) (a n : Word32) : List HostOp := [wr base .srcAddr a, wr base .srcLen n]

/-- `dst A`. -/
def dstOps (base : Nat) (a : Word32) : List HostOp := [wr base .dstAddr a]

/-- `salt A, N, C`. -/
def saltOps (base : Nat) (a n c : Word32) : List HostOp :=
  [wr base .auxAddr a, wr base .auxLen n, wr base .auxCap c]

/-- `iter N`. -/
def iterOps (base : Nat) (n : Word32) : List HostOp := [wr base .iter n]

end Sys2Proof.Machine
end

