-- ==== Sys2Proof/Machine/EngineTurn.lean ====
section
/-! DEFINITION. The agents' turns (spec/70_reset_and_hazards.md R285): the engine's exec step, which fetches the latched
command word, and the choice of the next turn. -/

namespace Sys2Proof.Machine

/-- The engine's exec step, enabled exactly when BUSY = 1: the latched word is decoded and run, an illegal word
completes with E_BAD_CMD (spec/60_exceptions.md R244). While BUSY = 0 the engine has no step and its turn passes. -/
def State.engineStep (s : State) : Host.Outcome State Fault Refusal :=
  if s.win.busy then
    match decode s.latch.cmd with
    | .command i => exec i s
    | .illegal _ => .next (s.reject .badCmd)
  else .next s

/-- Whose turn is next: the schedule's first entry; after it the engine whenever it is enabled (weak fairness), else
the host (spec/70_reset_and_hazards.md R285; log 1). -/
def State.nextTurn (s : State) : Turn :=
  match s.host.sched with
  | t :: _ => t
  | []     => if s.win.busy then .engine else .host

/-- The state with the turn taken off the schedule. -/
def State.popTurn (s : State) : State :=
  { s with host := { s.host with sched := s.host.sched.tail } }

/-- One turn. -/
def State.takeTurn (t : Turn) (s : State) : Host.Outcome State Fault Refusal :=
  match t with
  | .host   => s.hostStep
  | .engine => s.engineStep
  | .reset  => .next s.resetEvent

/-- The state in which a command has just been accepted and the engine's turn is next (log 11). -/
def State.placeCommand (w : Word32) (s : State) : State :=
  let s' := s.issue w
  { s' with host := { s'.host with sched := .engine :: s'.host.sched } }

end Sys2Proof.Machine
end

