-- ==== Sys2Proof/Machine/Step.lean ====
section
/-! DEFINITION. One step of the machine (spec/70_reset_and_hazards.md R285), and the placing of a command where the
next step runs it. -/

namespace Sys2Proof.Machine

/-- One step: the next agent takes its turn. -/
def step (s : State) : Host.Outcome State Fault Refusal :=
  s.popTurn.takeTurn s.nextTurn

/-- `s` with the command word of the low `nbits` bits of `w` accepted by CMD and the engine's turn next, so that the
very next step runs it (log 11). The core fetches no instruction from memory (spec/20_memory.md R76). -/
def State.withFetchWord (s : State) (nbits w : Nat) : State :=
  s.placeCommand (BitVec.ofNat 32 (w % 2 ^ nbits))

end Sys2Proof.Machine
end

