-- ==== Sys2Proof/Safety.lean ====
section
/-! DEFINITION. The terms claims use: the checks of spec/60_exceptions.md R244 as one function, the invariant of the
machine, the launch premises (spec/70_reset_and_hazards.md R273), the end of a run and its observation (R287), what the
host cannot see
(spec/10_state.md R42), and the hash, MAC and key functions the commands compute (spec/41_hash_engine.md R165,
spec/42_keyed_mac.md R200, spec/43_key_stretcher.md R228). Nothing here is used by the machine. -/

namespace Sys2Proof.Machine

/-! ### The checks -/

/-- The regions of a command in the order of step 6 (spec/60_exceptions.md R244). -/
def operandRegions (l : Latch) : Instr → List Region
  | .hashInit _     => []
  | .hashUpdate _   => [l.src]
  | .hashFinalize _ => [l.dst]
  | .hashOneshot _  => [l.src, l.dst]
  | .macInit        => [l.src]
  | .macClone       => []
  | .macCompute     => [l.src, l.dst]
  | .deriveKey      => [l.src, l.dst, l.salt]

/-- Step 2: HASH_UPDATE and HASH_FINALIZE on a FINALIZED engine (spec/60_exceptions.md R244). -/
def finalizedMisuse (s : State) : Instr → Bool
  | .hashUpdate e | .hashFinalize e => decide ((s.dp.engine e).fsm = .finalized)
  | .hashInit _ | .hashOneshot _ | .macInit | .macClone | .macCompute | .deriveKey => false

/-- Step 3: MAC_CLONE and MAC_COMPUTE without a context (spec/60_exceptions.md R244). -/
def contextMissing (s : State) : Instr → Bool
  | .macClone | .macCompute => !s.dp.ctxValid
  | .hashInit _ | .hashUpdate _ | .hashFinalize _ | .hashOneshot _ | .macInit | .deriveKey => false

/-- Step 4: HASH_UPDATE beyond SIZE_MAX (spec/60_exceptions.md R244). -/
def lengthExceeded (s : State) : Instr → Bool
  | .hashUpdate e => decide (sizeMax < (s.dp.engine e).size.toNat + s.latch.srcLen.toNat)
  | .hashInit _ | .hashFinalize _ | .hashOneshot _ | .macInit | .macClone | .macCompute | .deriveKey => false

/-- Step 5: DERIVE_KEY without room for the counter (spec/60_exceptions.md R244). -/
def saltCapacityShort (s : State) : Instr → Bool
  | .deriveKey => decide (s.latch.auxCap.toNat < s.latch.auxLen.toNat + 4)
  | .hashInit _ | .hashUpdate _ | .hashFinalize _ | .hashOneshot _ | .macInit | .macClone | .macCompute => false

/-- Steps 2 to 6 for a decoded command: the code of the first check that fails, E_OK if none does
(spec/60_exceptions.md R244). -/
def precheck (s : State) (i : Instr) : ErrCode :=
  if finalizedMisuse s i then .finalized
  else if contextMissing s i then .noCtx
  else if lengthExceeded s i then .length
  else if saltCapacityShort s i then .saltCap
  else if (operandRegions s.latch i).any (fun r => decide (0 < r.size ∧ 2 ^ 32 < r.base + r.size)) then .addr
  else .ok

/-- A region a command can access: in range, and admitted on every byte (spec/20_memory.md R63, R68). -/
def State.usable (s : State) (r : Region) : Prop :=
  r.inRange = true ∧ s.plat.admitsRegion r = true

/-- The bytes data memory holds in a region. -/
def State.bytesAt (s : State) (r : Region) : List Byte :=
  s.mem.readBytes r.base r.size

/-- Every data-memory byte a command accesses with the latch `l` completes without a bus error (spec/20_memory.md
R69). -/
def Platform.admitsFootprint (p : Platform) (l : Latch) (i : Instr) : Bool :=
  (readSet l i ++ writeSet l i).all fun r => p.admitsRegion r

/-- The footprint of a command with the operands latched now is admitted. -/
def footprintAdmitted (s : State) (i : Instr) : Bool :=
  s.plat.admitsFootprint s.latch i

/-! ### The invariant -/

/-- Unless the engine is FINALIZED, SIZE is within SIZE_MAX and POS = SIZE mod 128 (spec/10_state.md R33, R34). Behind
FINALIZED an E_BUS abort leaves SIZE at any value (spec/60_exceptions.md R247; log 9). -/
def Engine.sound (x : Engine) : Prop :=
  x.fsm ≠ .finalized → x.size.toNat ≤ sizeMax ∧ x.pos.toNat = x.size.toNat % 128

/-- A context in use holds two states that absorbed exactly one block (spec/42_keyed_mac.md R190). -/
def Datapath.contextSound (d : Datapath) : Prop :=
  d.ctxValid = true → d.ctxI.pos = 0 ∧ d.ctxI.size = 128 ∧ d.ctxO.pos = 0 ∧ d.ctxO.size = 128

/-- The STATUS flags agree: nothing is reported while BUSY, DONE, ERR and ERRCODE being 0, and ERR is set only with a
code (spec/10_state.md R25, R27, spec/60_exceptions.md R250). -/
def Window.flagsSound (w : Window) : Prop :=
  (w.busy = true → w.done = false ∧ w.err = false ∧ w.errcode = .ok) ∧ (w.err = true → w.errcode ≠ .ok)

/-- The invariant of the machine. -/
structure State.Inv (s : State) : Prop where
  mem     : s.mem.wf = true
  e0      : s.dp.e0.sound
  e1      : s.dp.e1.sound
  context : s.dp.contextSound
  flags   : s.win.flagsSound

/-! ### Runs -/

/-- `k` steps, stopping at the first fault or refusal. -/
def runSteps : Nat → State → Host.Outcome State Fault Refusal
  | 0, s => .next s
  | k + 1, s =>
    match step s with
    | .next t => runSteps k t
    | .fault x => .fault x
    | .refused x => .refused x

/-- A run is over when the host's program has executed its last step and no command is BUSY; that no fault is recorded
is that there is a state (spec/70_reset_and_hazards.md R287). Turns left on the schedule do not matter. -/
def State.runEnded (s : State) : Prop :=
  s.host.ops = [] ∧ s.win.busy = false

/-- What is observed at the end of a run: the register window, the data memory, and the engine FSMs and CTX_VALID through
STATUS (spec/70_reset_and_hazards.md R287). -/
structure Observation where
  id      : Word32
  ctrl    : Word32
  status  : Word32
  srcAddr : Word32
  srcLen  : Word32
  dstAddr : Word32
  auxAddr : Word32
  auxLen  : Word32
  auxCap  : Word32
  iter    : Word32
  mem     : Memory
deriving DecidableEq, Repr

/-- The observation of a state (spec/70_reset_and_hazards.md R287). -/
def State.observe (s : State) : Observation :=
  { id := idValue, ctrl := s.win.ctrl, status := s.status, srcAddr := s.win.srcAddr, srcLen := s.win.srcLen,
    dstAddr := s.win.dstAddr, auxAddr := s.win.auxAddr, auxLen := s.win.auxLen, auxCap := s.win.auxCap,
    iter := s.win.iter, mem := s.mem }

/-! ### Launch premises -/

/-- A host operation's register access is a 32-bit aligned access of the window (spec/70_reset_and_hazards.md R273 item
1). -/
def HostOp.reachesWindow (p : Platform) : HostOp → Bool
  | .regRead addr width | .regWrite addr width _ =>
    match p.windowOffset addr width with
    | .ok _ => true
    | .error _ => false
  | .memRead _ | .memWrite _ _ | .wait => true

/-- No command is in flight, and every byte of the regions that the operand registers now name for the command is
admitted, so that a CMD write of its word starts it without an E_BUS (spec/70_reset_and_hazards.md R273 item 2). -/
def State.launchReady (s : State) (i : Instr) : Prop :=
  s.win.busy = false ∧ s.plat.admitsFootprint (s.win.latched (encode i)) i = true

/-- The reset has completed and no command is in flight: the core holds the values of spec/10_state.md R43
(spec/70_reset_and_hazards.md R273 item 4). The latch and the scratch have none. -/
def State.resetCompleted (s : State) : Prop :=
  s.win = Window.reset ∧ s.dp.e0 = Engine.reset ∧ s.dp.e1 = Engine.reset ∧ s.dp.ctxI = Snapshot.reset ∧
    s.dp.ctxO = Snapshot.reset ∧ s.dp.ctxValid = false

/-- The launch premises of a run (spec/70_reset_and_hazards.md R273). Item 3, HOST_ORDER, is in every step (log 16), and
the ROMs are constants. -/
structure State.Launch (s : State) : Prop where
  /-- item 1 -/
  window : ∀ op ∈ s.host.ops, op.reachesWindow s.plat = true
  /-- item 2: in every state the run reaches in which the host is about to start a command -/
  operands : ∀ (k : Nat) (t : State) (addr : Nat) (width : Width) (v : Word32) (i : Instr),
    runSteps k s = .next t → t.nextTurn = .host → t.host.ops.head? = some (.regWrite addr width v) →
    t.plat.windowOffset addr width = .ok Reg.cmd.offset → decode v = .command i → t.win.busy = false →
    t.launchReady i
  /-- item 4 -/
  reset : s.resetCompleted

/-! ### What no observation reaches -/

/-- The bytes of BUF that carry meaning, BUF[0..POS−1] (spec/10_state.md R35). -/
def Engine.buffered (x : Engine) : List Byte := x.buf.toList.take x.pos.toNat

/-- Two engines that no command can tell apart: equal FSM, and, unless FINALIZED, equal H, POS, SIZE and meaningful
bytes of BUF (spec/10_state.md R35, R36, spec/60_exceptions.md R247). -/
def Engine.alike (x y : Engine) : Prop :=
  x.fsm = y.fsm ∧
    (x.fsm ≠ .finalized → x.h = y.h ∧ x.pos = y.pos ∧ x.size = y.size ∧ x.buffered = y.buffered)

/-- Two data paths that no command can tell apart: engines alike, CTX_VALID equal, and the snapshots equal where the
context is valid. The scratch is free (spec/10_state.md R40, spec/60_exceptions.md R247). -/
def Datapath.alike (x y : Datapath) : Prop :=
  x.e0.alike y.e0 ∧ x.e1.alike y.e1 ∧ x.ctxValid = y.ctxValid ∧
    (x.ctxValid = true → x.ctxI = y.ctxI ∧ x.ctxO = y.ctxO)

/-- Two states the host cannot tell apart: everything equal but the hidden contents of `Datapath.alike` and the latch
while no command is pending (spec/10_state.md R31, R42). -/
def State.alike (s t : State) : Prop :=
  s.win = t.win ∧ s.mem = t.mem ∧ s.plat = t.plat ∧ s.host = t.host ∧ s.draws = t.draws ∧
    (s.win.busy = true → s.latch = t.latch) ∧ s.dp.alike t.dp

/-- Two outcomes the host cannot tell apart. -/
def outcomesAlike : Host.Outcome State Fault Refusal → Host.Outcome State Fault Refusal → Prop
  | .next s, .next t => s.alike t
  | .fault x, .fault y => x = y
  | .refused x, .refused y => x = y
  | _, _ => False

/-! ### The functions the commands compute -/

/-- `C(H, B)` (spec/40_compression.md R132), the workspace being the one of reset. -/
def compressC (h : HashWords) (B : List Byte) : HashWords := compress h B Scratch.reset.ws

/-- The fold of C over the first `k` 128-byte blocks of P (spec/41_hash_engine.md R165). -/
def foldBlocks : Nat → List Byte → HashWords → HashWords
  | 0, _, h => h
  | k + 1, P, h => foldBlocks k (P.drop 128) (compressC h (P.take 128))

/-- The least z ≥ 0 with (n + 1 + z + 16) mod 128 = 0 (spec/41_hash_engine.md R165). -/
def zeroFill (n : Nat) : Nat := (128 - (n + 17) % 128) % 128

/-- The padding of a message of n bytes: 0x80, the zero fill and the bit length in 16 big-endian bytes
(spec/41_hash_engine.md R165). -/
def padding (n : Nat) : List Byte :=
  0x80 :: (List.replicate (zeroFill n) 0 ++ beBytes 16 (BitVec.ofNat 128 (8 * n)))

/-- The digest of a message: C folded over its padded blocks from IV (spec/41_hash_engine.md R165). -/
def sha512 (M : List Byte) : Vector Byte 64 :=
  let P := M ++ padding M.length
  digest (foldBlocks (P.length / 128) P iv)

/-- KeyBlock(K) as a byte string (spec/42_keyed_mac.md R191). -/
def keyBytes (K : List Byte) : List Byte :=
  if K.length > 128 then (sha512 K).toList ++ List.replicate 64 0
  else K ++ List.replicate (128 - K.length) 0

/-- SHA512(OPAD || SHA512(IPAD || M)) (spec/42_keyed_mac.md R200). -/
def hmac (K M : List Byte) : Vector Byte 64 :=
  let xored (x : Byte) := (keyBytes K).map fun b => b ^^^ x
  sha512 (xored 0x5c ++ (sha512 (xored 0x36 ++ M)).toList)

/-- U(i): U(1) is the MAC of the salt with its counter, U(i+1) the MAC of U(i) (spec/43_key_stretcher.md R225, R228). -/
def chainU (P S : List Byte) : Nat → Vector Byte 64
  | 0 => hmac P S
  | n + 1 => hmac P (chainU P S n).toList

/-- U(1) XOR U(2) XOR … XOR U(n+1) (spec/43_key_stretcher.md R228). -/
def chainXor (P S : List Byte) : Nat → Vector Byte 64
  | 0 => chainU P S 0
  | n + 1 => xorBytes (chainXor P S n) (chainU P S (n + 1))

/-- The derived key for the password, the salt with its counter, and the iteration count (spec/43_key_stretcher.md
R228: c' = max(c, 1) values are combined). -/
def derivedKey (P S : List Byte) (c : Nat) : Vector Byte 64 :=
  chainXor P S (max c 1 - 1)

/-- The compressions of the padded hash of n bytes (spec/41_hash_engine.md R168). -/
def hashWork (n : Nat) : Nat := n / 128 + if n % 128 ≤ 111 then 1 else 2

/-- The compressions of MAC_INIT with an n-byte key, I(n) (spec/42_keyed_mac.md R202). -/
def keyWork (n : Nat) : Nat := if n ≤ 128 then 2 else hashWork n + 2

/-- The compressions of a command that completes with E_OK (spec/70_reset_and_hazards.md R291). -/
def commandWork (s : State) : Instr → Nat
  | .hashInit _     => 0
  | .hashUpdate e   => ((s.dp.engine e).pos.toNat + s.latch.srcLen.toNat) / 128
  | .hashFinalize e => if (s.dp.engine e).pos.toNat ≤ 111 then 1 else 2
  | .hashOneshot _  => hashWork s.latch.srcLen.toNat
  | .macInit        => keyWork s.latch.srcLen.toNat
  | .macClone       => 0
  | .macCompute     => hashWork s.latch.srcLen.toNat + 1
  | .deriveKey      =>
    keyWork s.latch.srcLen.toNat + (hashWork (s.latch.auxLen.toNat + 4) + 1) + 2 * (max s.latch.iter.toNat 1 - 1)

/-- The engines a command uses (spec/60_exceptions.md R247). -/
def usesEngine (i : Instr) (e : EngineId) : Bool :=
  match i with
  | .hashInit x | .hashUpdate x | .hashFinalize x | .hashOneshot x => decide (x = e)
  | .macInit | .macClone | .macCompute | .deriveKey => true

/-- The commands that build the MAC context (spec/10_state.md R39). -/
def buildsContext : Instr → Bool
  | .macInit | .deriveKey => true
  | .hashInit _ | .hashUpdate _ | .hashFinalize _ | .hashOneshot _ | .macClone | .macCompute => false

/-- FSM after a command that completes with E_OK, for an engine it uses (spec/41_hash_engine.md R150). -/
def fsmAfter : Instr → Fsm
  | .hashInit _     => .ready
  | .hashUpdate _   => .absorbing
  | .hashFinalize _ => .finalized
  | .hashOneshot _  => .finalized
  | .macInit        => .absorbing
  | .macClone       => .absorbing
  | .macCompute     => .finalized
  | .deriveKey      => .finalized

end Sys2Proof.Machine
end

