-- ==== Sys2Proof/Certificates/Slice0/Obligations.lean ====
section
/-! DEFINITION. The statements for the provers, from the numbered rules of spec/. Each docstring names the rule. -/

open Sys2Proof Sys2Proof.Machine

/-! ### Encoding -/

/-- 30 R95: decoding is total, and a word decodes to a command exactly when it is that command's one word; the words
are those of R93. -/
def Obligations.DecodeAcceptsExactlyTheCommandWords : Prop :=
  (∀ (w : Word32) (i : Instr), decode w = .command i ↔ w = encode i) ∧
  encode (.hashInit .e0) = 0x00000001 ∧ encode (.hashInit .e1) = 0x00000101 ∧
  encode (.hashUpdate .e0) = 0x00000002 ∧ encode (.hashUpdate .e1) = 0x00000102 ∧
  encode (.hashFinalize .e0) = 0x00000003 ∧ encode (.hashFinalize .e1) = 0x00000103 ∧
  encode (.hashOneshot .e0) = 0x00000004 ∧ encode (.hashOneshot .e1) = 0x00000104 ∧
  encode .macInit = 0x00000010 ∧ encode .macClone = 0x00000011 ∧
  encode .macCompute = 0x00000012 ∧ encode .deriveKey = 0x00000020

/-- 30 section 2: a few words written out decode to the commands they stand for, and neighbours are illegal. The spec has
the one value ILLEGAL: the reason an illegal word is named with here is the model's choice (log 20). -/
def Obligations.WordsOfTheOpcodeMapDecode : Prop :=
  decode 0x00000101 = .command (.hashInit .e1) ∧ decode 0x00000002 = .command (.hashUpdate .e0) ∧
  decode 0x00000012 = .command .macCompute ∧ decode 0x00000020 = .command .deriveKey ∧
  decode 0x00000110 = .illegal .engineBit ∧ decode 0x00000201 = .illegal .reservedBits ∧
  decode 0x00000013 = .illegal .unknownOpcode ∧ decode 0x00000000 = .illegal .unknownOpcode

/-- 30 R94: which words are illegal; CMD accepts them; the engine completes them with E_BAD_CMD and no other effect. -/
def Obligations.IllegalWordsCompleteWithBadCmd : Prop :=
  (∀ w : Word32, (∃ why, decode w = .illegal why) ↔
    (w.extractLsb' 0 8 ∉ ([0x01, 0x02, 0x03, 0x04, 0x10, 0x11, 0x12, 0x20] : List (BitVec 8)) ∨
      w.extractLsb' 9 23 ≠ 0 ∨
      (w.extractLsb' 8 1 = 1 ∧ w.extractLsb' 0 8 ∉ ([0x01, 0x02, 0x03, 0x04] : List (BitVec 8))))) ∧
  (∀ (w : Word32) (s : State), s.win.busy = false → s.writeReg (some .cmd) w = s.issue w) ∧
  (∀ (s : State) (why : IllegalWord), s.win.busy = true → decode s.latch.cmd = .illegal why →
    s.engineStep = .next (s.complete .badCmd))

/-! ### The register window -/

/-- 10 R23: ID reads 0x53353132 and no field of it is writable. -/
def Obligations.IdReadsS512 : Prop :=
  ∀ (s : State) (v : Word32),
    s.readReg (Reg.at? 0x00) = (0x53353132, s) ∧ s.writeReg (Reg.at? 0x00) v = s

/-- 10 R24: CTRL holds IRQ_EN in bit 0; the other bits ignore writes and read 0; a write takes effect at once, also
while BUSY = 1. -/
def Obligations.CtrlHoldsOnlyTheInterruptEnable : Prop :=
  (∀ (s : State) (v : Word32),
    let t := s.writeReg (Reg.at? 0x04) v
    t = { s with win := { s.win with irqEn := v.getLsbD 0 } } ∧
    t.readReg (Reg.at? 0x04) = (if v.getLsbD 0 then 1 else 0, t) ∧
    t.irq = (v.getLsbD 0 && s.win.done)) ∧
  State.reset.win.irqEn = false

/-- 10 section 2, STATUS: what a read returns, field by field, with the numbers of the FSM states and of the error
codes (60 section 1). While BUSY = 1 the fields E0_FSM, E1_FSM and CTX_VALID are free values and nothing is said of
them. The premise holds in every state that meets the invariant. -/
def Obligations.StatusReadReturnsItsFields : Prop :=
  (∀ s : State, s.win.flagsSound →
    let v := (s.readReg (Reg.at? 0x08)).1
    v.getLsbD 0 = s.win.busy ∧ v.getLsbD 1 = s.win.done ∧ v.getLsbD 2 = s.win.err ∧ v.getLsbD 3 = s.win.ovr ∧
    v.extractLsb' 16 8 = s.win.errcode.value ∧ v.extractLsb' 9 7 = 0 ∧ v.extractLsb' 24 8 = 0 ∧
    (s.win.busy = true → v.getLsbD 1 = false ∧ v.getLsbD 2 = false ∧ v.extractLsb' 16 8 = 0) ∧
    (s.win.busy = false →
      v.extractLsb' 4 2 = s.dp.e0.fsm.value ∧ v.extractLsb' 6 2 = s.dp.e1.fsm.value ∧
      v.getLsbD 8 = s.dp.ctxValid)) ∧
  (State.reset.readReg (Reg.at? 0x08)).1 = 0x000000A0 ∧
  (Fsm.ready.value = 0 ∧ Fsm.absorbing.value = 1 ∧ Fsm.finalized.value = 2) ∧
  ErrCode.ok.value = 0x00 ∧ ErrCode.badCmd.value = 0x01 ∧ ErrCode.finalized.value = 0x02 ∧
  ErrCode.length.value = 0x03 ∧ ErrCode.noCtx.value = 0x04 ∧ ErrCode.saltCap.value = 0x05 ∧
  ErrCode.addr.value = 0x06 ∧ ErrCode.bus.value = 0x07

/-- 10 R26: a write of v to STATUS clears DONE, ERR and OVR where bits 1, 2 and 3 of v are 1 and changes nothing else;
while BUSY = 1 it clears only what is already 0 for DONE and ERR. -/
def Obligations.StatusWriteClearsOnes : Prop :=
  ∀ (s : State) (v : Word32),
    let t := s.writeReg (Reg.at? 0x08) v
    t = { s with win := { s.win with
      done := if v.getLsbD 1 then false else s.win.done
      err := if v.getLsbD 2 then false else s.win.err
      ovr := if v.getLsbD 3 then false else s.win.ovr } } ∧
    (s.win.flagsSound → s.win.busy = true → t.win.done = s.win.done ∧ t.win.err = s.win.err)

/-- 10 R27: a CMD write while BUSY = 1 only sets OVR; otherwise it latches the word and every operand register, sets
BUSY and clears DONE, ERR and ERRCODE. Every value is accepted, and an accepted write completes at the engine's step,
an illegal word with E_BAD_CMD. -/
def Obligations.CmdWriteIssuesOrSetsOverrun : Prop :=
  ∀ (s : State) (v : Word32),
    let t := s.writeReg (Reg.at? 0x0C) v
    (s.win.busy = true → t = { s with win := { s.win with ovr := true } }) ∧
    (s.win.busy = false →
      t = { s with
        latch := { cmd := v, srcAddr := s.win.srcAddr, srcLen := s.win.srcLen, dstAddr := s.win.dstAddr,
                   auxAddr := s.win.auxAddr, auxLen := s.win.auxLen, auxCap := s.win.auxCap, iter := s.win.iter }
        win := { s.win with busy := true, done := false, err := false, errcode := .ok } } ∧
      ∃ u, t.engineStep = .next u ∧ u.win.busy = false ∧ u.win.done = true ∧
        ∀ why, decode v = .illegal why → u.win.errcode = .badCmd)

/-- 10 section 2, the operand registers: each holds every value written, and a write changes no other register and
nothing outside the window. The reads of STATUS before and after the write are compared at one number of the next free
value, so that while BUSY = 1 their draws are equal (log 7); that two reads of it draw alike is not claimed. -/
def Obligations.OperandRegistersHoldEveryValue : Prop :=
  ∀ (s : State) (r : Reg) (v : Word32),
    r ∈ [Reg.srcAddr, .srcLen, .dstAddr, .auxAddr, .auxLen, .auxCap, .iter] →
    let t := s.writeReg (some r) v
    t.readReg (some r) = (v, t) ∧
    (∀ r' : Reg, r' ≠ r → (t.readReg (some r')).1 = (s.readReg (some r')).1) ∧
    { t with win := s.win } = s

/-- 10 section 2, the window: the register map; only 32-bit accesses at multiples of 4 reach the window, any other is
refused; a read of a register answers its value, a write performs the register's write; reserved offsets read 0 and
ignore writes; CMD reads 0; ID ignores writes; reads have no side effect on the core. That the value read is kept in
State.host.reads is the model's (log 14). -/
def Obligations.WindowTakesOnlyAlignedWords : Prop :=
  (Reg.at? 0x00 = some .id ∧ Reg.at? 0x04 = some .ctrl ∧ Reg.at? 0x08 = some .status ∧ Reg.at? 0x0C = some .cmd ∧
    Reg.at? 0x10 = some .srcAddr ∧ Reg.at? 0x14 = some .srcLen ∧ Reg.at? 0x18 = some .dstAddr ∧
    Reg.at? 0x1C = some .auxAddr ∧ Reg.at? 0x20 = some .auxLen ∧ Reg.at? 0x24 = some .auxCap ∧
    Reg.at? 0x28 = some .iter ∧ ∀ off, 0x2C ≤ off → Reg.at? off = none) ∧
  (∀ r : Reg, Reg.at? r.offset = some r) ∧
  (∀ (s : State) (r : Reg) (v : Word32),
    let addr := s.plat.regBase + r.offset
    s.hostRegRead addr .word =
      .next ((s.readReg (some r)).2.got (.reg addr (s.readReg (some r)).1)) ∧
    s.hostRegWrite addr .word v = .next (s.writeReg (some r) v)) ∧
  ∀ (s : State) (off : Nat) (width : Width) (v : Word32), off < 256 →
    let addr := s.plat.regBase + off
    ((width ≠ .word ∨ off % 4 ≠ 0) →
      s.hostRegRead addr width = .refused (.registerAccess addr) ∧
      s.hostRegWrite addr width v = .refused (.registerAccess addr)) ∧
    (width = .word → off % 4 = 0 →
      (0x2C ≤ off →
        s.hostRegRead addr width = .next (s.got (.reg addr 0)) ∧ s.hostRegWrite addr width v = .next s) ∧
      (off = 0x0C → s.hostRegRead addr width = .next (s.got (.reg addr 0))) ∧
      (off = 0x00 → s.hostRegWrite addr width v = .next s) ∧
      ∃ t x, s.hostRegRead addr width = .next t ∧ t.host.reads = .reg addr x :: s.host.reads ∧
        t.win = s.win ∧ t.latch = s.latch ∧ t.dp = s.dp ∧ t.mem = s.mem ∧ t.plat = s.plat ∧
        t.host.ops = s.host.ops ∧ t.host.sched = s.host.sched)

/-- 10 section 3 and 70 section 5: a command reads its operands only from the latch, so operand registers written
while it runs pass through it unread; only AUX_LEN is overwritten, by a DERIVE_KEY that succeeds. The latch itself is
written only by an accepted CMD write (and by reset). The two runs start at one number of the next free value, so that
what an E_BUS abort leaves unspecified is drawn alike in both; this form of comparison is the model's (log 7), and
that the hardware draws alike is not claimed. -/
def Obligations.LatchIsolatesTheRunningCommand : Prop :=
  (∀ (i : Instr) (s : State) (sa sl da aa al ac it : Word32),
    ∃ t, exec i s = .next t ∧
      exec i { s with win := { s.win with srcAddr := sa, srcLen := sl, dstAddr := da, auxAddr := aa, auxLen := al,
                                          auxCap := ac, iter := it } } =
        .next { t with win := { t.win with srcAddr := sa, srcLen := sl, dstAddr := da, auxAddr := aa, auxCap := ac,
                                           iter := it
                                           auxLen := if i = .deriveKey ∧ t.win.errcode = .ok then t.win.auxLen
                                                     else al } }) ∧
  (∀ s t : State, step s = .next t →
    t.latch = s.latch ∨ s.nextTurn = .reset ∨
    (s.nextTurn = .host ∧ s.win.busy = false ∧ ∃ addr width v, s.host.ops.head? = some (.regWrite addr width v) ∧
      s.plat.windowOffset addr width = .ok 0x0C))

/-! ### Completion, errors and the interrupt line -/

/-- 60 R250: `complete(code)`; every command ends with it, OVR, CTRL and the operand registers unchanged but for the
AUX_LEN a successful DERIVE_KEY writes, and STATUS then shows the FSMs and CTX_VALID the command left. The frame of
every command: latch, platform and host's side stay. That the latch, which the spec leaves unspecified with no command
pending, is kept is the model's (log 8); the host's side (log 1, log 14) and the platform (log 4) are fields of the
model's own. -/
def Obligations.CompletionReportsTheCode : Prop :=
  (∀ (s : State) (c : ErrCode),
    s.complete c =
      { s with win := { s.win with busy := false, done := true, err := decide (c ≠ .ok), errcode := c } }) ∧
  (∀ (i : Instr) (s : State), ∃ t, exec i s = .next t ∧
    t.win = { s.win with
      busy := false
      done := true
      err := decide (t.win.errcode ≠ .ok)
      errcode := t.win.errcode
      auxLen := if i = .deriveKey ∧ t.win.errcode = .ok then s.latch.auxLen + 4 else s.win.auxLen } ∧
    t.latch = s.latch ∧ t.plat = s.plat ∧ t.host = s.host ∧
    (t.readReg (some .status)).1 = statusWord t.win t.dp.e0.fsm.value t.dp.e1.fsm.value t.dp.ctxValid) ∧
  (∀ (s : State) (why : IllegalWord), s.win.busy = true → decode s.latch.cmd = .illegal why →
    s.engineStep = .next (s.complete .badCmd))

/-- 60 R252: IRQ = CTRL.IRQ_EN & STATUS.DONE; what clears it; command completion is the single source of DONE, and
every completion, successful or not, raises the same line. -/
def Obligations.InterruptFollowsDone : Prop :=
  (∀ s : State, s.irq = true ↔ s.win.irqEn = true ∧ s.win.done = true) ∧
  (∀ (s : State) (v : Word32), v.getLsbD 1 = true → (s.writeReg (some .status) v).irq = false) ∧
  (∀ (s : State) (v : Word32), s.win.busy = false → (s.writeReg (some .cmd) v).irq = false) ∧
  (∀ (s : State) (v : Word32), v.getLsbD 0 = false → (s.writeReg (some .ctrl) v).irq = false) ∧
  (∀ s t : State, step s = .next t → s.win.done = false → t.win.done = true →
    s.nextTurn = .engine ∧ s.win.busy = true) ∧
  (∀ (s : State) (c : ErrCode), (s.complete c).irq = s.win.irqEn) ∧
  (∀ (i : Instr) (s : State), ∃ t, exec i s = .next t ∧ t.irq = s.win.irqEn) ∧
  State.reset.irq = false

/-- 60 R248: a CMD write while BUSY = 1 sets OVR and nothing else; the running command, its code and its completion
are unaffected; OVR stays until the host writes 1 to STATUS[3] (or reset). The two runs start at one number of the
next free value, so that what an E_BUS abort leaves unspecified is drawn alike in both; this form of comparison is the
model's (log 7), and that the hardware draws alike is not claimed. -/
def Obligations.OverrunIsStickyAndHarmless : Prop :=
  (∀ (s : State) (v : Word32), s.win.busy = true →
    s.writeReg (some .cmd) v = { s with win := { s.win with ovr := true } }) ∧
  (∀ (i : Instr) (s : State), ∃ t, exec i s = .next t ∧
    exec i { s with win := { s.win with ovr := true } } = .next { t with win := { t.win with ovr := true } }) ∧
  (∀ s t : State, step s = .next t → s.win.ovr = true →
    t.win.ovr = true ∨ s.nextTurn = .reset ∨
    (s.nextTurn = .host ∧ ∃ addr width v, s.host.ops.head? = some (.regWrite addr width v) ∧
      s.plat.windowOffset addr width = .ok 0x08 ∧ v.getLsbD 3 = true))

/-- 60 R244: a command completes with the code of the first check that fails, in the order E_BAD_CMD, E_FINALIZED,
E_NO_CTX, E_LENGTH, E_SALT_CAP, E_ADDR; with E_BUS exactly when none of those fails and a byte it accesses is not
admitted; else with E_OK. -/
def Obligations.ErrorCodeFollowsTheCheckingOrder : Prop :=
  (∀ (s : State) (why : IllegalWord), s.win.busy = true → decode s.latch.cmd = .illegal why →
    s.engineStep = .next (s.complete .badCmd)) ∧
  (∀ (i : Instr) (s : State), ∃ t, exec i s = .next t ∧
    t.win.errcode =
      if precheck s i ≠ .ok then precheck s i else if footprintAdmitted s i then .ok else .bus)

/-- 60 R246: a command rejected at steps 1 to 6 changes nothing except STATUS. -/
def Obligations.RejectedCommandChangesOnlyStatus : Prop :=
  (∀ (i : Instr) (s : State), precheck s i ≠ .ok → ∃ t, exec i s = .next t ∧
    t = { s with win := { s.win with busy := false, done := true, err := true, errcode := precheck s i } }) ∧
  (∀ (s : State) (why : IllegalWord), s.win.busy = true → decode s.latch.cmd = .illegal why →
    ∃ t, s.engineStep = .next t ∧
      t = { s with win := { s.win with busy := false, done := true, err := true, errcode := .badCmd } })

/-- 60 section 2, what follows from the checks: no check depends on data memory, and the same rejected command run again
gives the same code (an inference the spec marks as its own: "Issuing the same rejected command again with no state
change in between therefore gives the same code"). -/
def Obligations.RejectionIsRepeatable : Prop :=
  ∀ (i : Instr) (s t : State) (m : Memory), precheck s i ≠ .ok → exec i s = .next t →
    exec i t = .next t ∧ exec i { s with mem := m } = .next { t with mem := m }

/-- 60 R247: the state after an E_BUS abort: the engines used, the other engine, the context, AUX_LEN, and data
memory, of which only the counter bytes can have changed when DERIVE_KEY fails at the counter or at the salt. What the
rule leaves unspecified is left unsaid. That the latch is kept, which the spec leaves unspecified with no command
pending, is the model's (log 8). -/
def Obligations.BusErrorAbortsTheCommand : Prop :=
  ∀ (i : Instr) (s t : State), exec i s = .next t → t.win.errcode = .bus →
    (∀ e, usesEngine i e = true → (t.dp.engine e).fsm = .finalized) ∧
    (∀ e, usesEngine i e = false → t.dp.engine e = s.dp.engine e) ∧
    (buildsContext i = false →
      t.dp.ctxI = s.dp.ctxI ∧ t.dp.ctxO = s.dp.ctxO ∧ t.dp.ctxValid = s.dp.ctxValid) ∧
    (buildsContext i = true → t.dp.ctxValid = false) ∧
    t = { s with win := s.win.complete .bus, dp := t.dp, mem := t.mem, draws := t.draws } ∧
    t.win.auxLen = s.win.auxLen ∧
    (∀ a, anyHolds (writeSet s.latch i) a = false → t.mem.read a = s.mem.read a) ∧
    (s.latch.src ∈ readSet s.latch i → s.plat.admitsRegion s.latch.src = false → t.mem = s.mem) ∧
    (i = .deriveKey →
      s.plat.admitsRegion s.latch.counter = false ∨ s.plat.admitsRegion s.latch.salt = false →
      ∀ a, s.latch.counter.holds a = false → t.mem.read a = s.mem.read a) ∧
    (i = .deriveKey → s.plat.admitsRegion s.latch.src = true → s.plat.admitsRegion s.latch.counter = true →
      ∀ a, s.latch.counter.holds a = true →
        (s.latch.dst.holds a = false ∨ s.plat.admitsRegion s.latch.salt = false) →
        t.mem.read a = ([0x00, 0x00, 0x00, 0x01] : List Byte).getD (a - s.latch.counter.base) 0)

/-! ### Data memory -/

/-- 20 R63: MemRead returns the n bytes at a to a + n − 1, aborts exactly when one of them is not admitted, and accesses
nothing for n = 0. -/
def Obligations.MemReadReturnsTheBytes : Prop :=
  ∀ (s : State) (r : Region),
    (∀ B : List Byte, s.memRead r = some B ↔
      (∀ i, i < r.size → s.plat.admits (r.base + i) = true) ∧ B.length = r.size ∧
      ∀ i, i < r.size → B.getD i 0 = s.mem.read (r.base + i)) ∧
    (s.memRead r = none ↔ ∃ i, i < r.size ∧ s.plat.admits (r.base + i) = false) ∧
    (r.size = 0 → s.memRead r = some [])

/-- 20 R64: MemWrite sets mem[a + i] to B[i] and changes no other byte; where a byte is not admitted it aborts, and the
bytes outside the region are still unchanged. -/
def Obligations.MemWriteStoresTheBytes : Prop :=
  ∀ (s : State) (a : Nat) (B : List Byte), a + B.length ≤ 2 ^ 32 →
    ((∀ i, i < B.length → s.plat.admits (a + i) = true) →
      ∃ t, s.memWrite a B = .ok t ∧ t = { s with mem := t.mem } ∧
        (∀ i, i < B.length → t.mem.read (a + i) = B.getD i 0) ∧
        ∀ x, x < a ∨ a + B.length ≤ x → t.mem.read x = s.mem.read x) ∧
    ((∃ i, i < B.length ∧ s.plat.admits (a + i) = false) →
      ∃ t, s.memWrite a B = .error t ∧ t = { s with mem := t.mem, draws := t.draws } ∧
        ∀ x, x < a ∨ a + B.length ≤ x → t.mem.read x = s.mem.read x)

/-- 20 R68: a region is in range exactly when n = 0 or a + n ≤ 2^32, and a command whose earlier checks pass and one of
whose regions is not is rejected with E_ADDR before any access; a region with n = 0 is not accessed. -/
def Obligations.OutOfRangeRegionsAreRejected : Prop :=
  (∀ r : Region, r.inRange = true ↔ (r.size = 0 ∨ r.base + r.size ≤ 2 ^ 32)) ∧
  (∀ (i : Instr) (s : State),
    finalizedMisuse s i = false → contextMissing s i = false → lengthExceeded s i = false →
    saltCapacityShort s i = false → (∃ r ∈ operandRegions s.latch i, 0 < r.size ∧ 2 ^ 32 < r.base + r.size) →
    exec i s = .next (s.complete .addr)) ∧
  (∀ (s : State) (r : Region), r.size = 0 → s.memRead r = some []) ∧
  (∀ (s : State) (a : Nat), s.memWrite a [] = .ok s)

/-- 20 R69: the table of footprints; the read set and the write set are the only data-memory bytes a command accesses:
it changes no byte outside its write set, and two memories that agree on its read set lead to states that agree in
everything but memory, and on the write set in what was written there. The two runs start at one number of the next
free value, so that what an E_BUS abort leaves unspecified is drawn alike in both; this form of comparison is the
model's (log 7), and that the hardware draws alike is not claimed. So too the bytes of a MemWrite that aborts, which
the spec leaves at any value. -/
def Obligations.CommandTouchesOnlyItsFootprint : Prop :=
  (∀ l : Latch,
    let src : Region := ⟨l.srcAddr.toNat, l.srcLen.toNat⟩
    let dst : Region := ⟨l.dstAddr.toNat, 64⟩
    let salt : Region := ⟨l.auxAddr.toNat, l.auxLen.toNat + 4⟩
    let counter : Region := ⟨l.auxAddr.toNat + l.auxLen.toNat, 4⟩
    l.src = src ∧ l.dst = dst ∧ l.salt = salt ∧ l.counter = counter ∧
    (∀ e : EngineId,
      (readSet l (.hashInit e) = [] ∧ writeSet l (.hashInit e) = []) ∧
      (readSet l (.hashUpdate e) = [src] ∧ writeSet l (.hashUpdate e) = []) ∧
      (readSet l (.hashFinalize e) = [] ∧ writeSet l (.hashFinalize e) = [dst]) ∧
      (readSet l (.hashOneshot e) = [src] ∧ writeSet l (.hashOneshot e) = [dst])) ∧
    (readSet l .macInit = [src] ∧ writeSet l .macInit = []) ∧
    (readSet l .macClone = [] ∧ writeSet l .macClone = []) ∧
    (readSet l .macCompute = [src] ∧ writeSet l .macCompute = [dst]) ∧
    (readSet l .deriveKey = [src, salt] ∧ writeSet l .deriveKey = [counter, dst])) ∧
  (∀ (r : Region) (a : Nat), r.holds a = true ↔ r.base ≤ a ∧ a < r.base + r.size) ∧
  ∀ (i : Instr) (s : State) (m : Memory),
    (∀ a, anyHolds (readSet s.latch i) a = true → m.read a = s.mem.read a) →
    ∃ t u, exec i s = .next t ∧ exec i { s with mem := m } = .next u ∧ u = { t with mem := u.mem } ∧
      (∀ a, anyHolds (writeSet s.latch i) a = false →
        t.mem.read a = s.mem.read a ∧ u.mem.read a = m.read a) ∧
      (∀ a, anyHolds (writeSet s.latch i) a = true →
        u.mem.read a = t.mem.read a ∨ (t.mem.read a = s.mem.read a ∧ u.mem.read a = m.read a))

/-- 20 R72: during BUSY a host write in the running command's footprint is MEM_RACE; a host read in the write set
returns some value and changes nothing; a host read elsewhere, the read set included, returns the byte. While BUSY = 0,
and while the latched word is illegal and has no footprint (log 15), every byte is read and written plainly. The access is
to an address that exists (log 10); the value read is kept in State.host.reads (log 14). -/
def Obligations.HostAccessesDuringBusyAreGuarded : Prop :=
  (∀ (s : State) (a : Word32) (b : Byte), s.plat.admits a.toNat = true →
    (s.win.busy = false ∨ ∃ why, decode s.latch.cmd = .illegal why) →
    s.hostMemRead a = .next (s.got (.mem a (s.mem.read a.toNat))) ∧
    s.hostMemWrite a b = .next { s with mem := s.mem.write a.toNat b }) ∧
  (∀ (s : State) (a : Word32) (b : Byte), (s.mem.write a.toNat b).read a.toNat = b ∧
    ∀ x, x ≠ a.toNat → (s.mem.write a.toNat b).read x = s.mem.read x) ∧
  ∀ (s : State) (i : Instr) (a : Word32) (b : Byte), s.win.busy = true → decode s.latch.cmd = .command i →
    s.plat.admits a.toNat = true →
    (anyHolds (readSet s.latch i ++ writeSet s.latch i) a.toNat = true →
      s.hostMemWrite a b = .fault (.memRace a.toNat)) ∧
    (anyHolds (readSet s.latch i ++ writeSet s.latch i) a.toNat = false →
      s.hostMemWrite a b = .next { s with mem := s.mem.write a.toNat b }) ∧
    (anyHolds (writeSet s.latch i) a.toNat = true →
      ∃ t x, s.hostMemRead a = .next t ∧ t = { s with host := t.host, draws := t.draws } ∧
        t.host = { s.host with reads := .mem a x :: s.host.reads }) ∧
    (anyHolds (writeSet s.latch i) a.toNat = false →
      s.hostMemRead a = .next (s.got (.mem a (s.mem.read a.toNat))))

/-! ### The compression engine -/

/-- 40 R110, R111: ROTR rotates the 64 bits right by n, 0 < n < 64, SHR shifts right with zero fill; their corner cases
and examples. -/
def Obligations.RotateAndShiftMoveBits : Prop :=
  (∀ (x : Word64) (n : Nat), 0 < n → n < 64 →
    (rotr x n).toNat = ((x.toNat >>> n) ||| (x.toNat <<< (64 - n))) % 2 ^ 64 ∧
    (∀ i, i < 64 → (rotr x n).getLsbD i = x.getLsbD ((i + n) % 64)) ∧
    rotr 0 n = 0 ∧ rotr (BitVec.allOnes 64) n = BitVec.allOnes 64) ∧
  (∀ (x : Word64) (n : Nat), (shr x n).toNat = x.toNat / 2 ^ n) ∧
  rotr 0x0000000000000001 1 = 0x8000000000000000 ∧
  shr 0xFFFFFFFFFFFFFFFF 7 = 0x01FFFFFFFFFFFFFF

/-- 40 R112, R113: Ch takes each bit of y or z as x says, Maj is the bitwise majority; their corner cases and
examples. -/
def Obligations.ChoiceAndMajoritySelectBits : Prop :=
  (∀ (x y z : Word64) (i : Nat), i < 64 →
    (choose x y z).getLsbD i = (if x.getLsbD i then y.getLsbD i else z.getLsbD i) ∧
    (majority x y z).getLsbD i =
      ((x.getLsbD i && y.getLsbD i) || (x.getLsbD i && z.getLsbD i) || (y.getLsbD i && z.getLsbD i))) ∧
  (∀ y z : Word64, choose (BitVec.allOnes 64) y z = y ∧ choose 0 y z = z) ∧
  (∀ x y z : Word64, majority x x z = x ∧ majority x y z = majority y x z ∧ majority x y z = majority x z y) ∧
  choose 0xF0F0F0F0F0F0F0F0 0xFFFFFFFF00000000 0x00000000FFFFFFFF = 0xF0F0F0F00F0F0F0F ∧
  majority 0xFF00FF00FF00FF00 0xF0F0F0F0F0F0F0F0 0xCCCCCCCCCCCCCCCC = 0xFCC0FCC0FCC0FCC0

/-- 40 R114 to R117: the four mixing functions, bit by bit (indexes of a rotation taken mod 64, the shift bringing in
zeros), their corner cases and examples. -/
def Obligations.SigmaFunctionsMixBits : Prop :=
  (∀ (x : Word64) (i : Nat), i < 64 →
    let r (n : Nat) : Bool := x.getLsbD ((i + n) % 64)
    (bsig0 x).getLsbD i = (r 28 ^^ r 34 ^^ r 39) ∧
    (bsig1 x).getLsbD i = (r 14 ^^ r 18 ^^ r 41) ∧
    (ssig0 x).getLsbD i = (r 1 ^^ r 8 ^^ x.getLsbD (i + 7)) ∧
    (ssig1 x).getLsbD i = (r 19 ^^ r 61 ^^ x.getLsbD (i + 6))) ∧
  bsig0 0 = 0 ∧ bsig1 0 = 0 ∧ ssig0 0 = 0 ∧ ssig1 0 = 0 ∧
  bsig0 (BitVec.allOnes 64) = BitVec.allOnes 64 ∧ bsig1 (BitVec.allOnes 64) = BitVec.allOnes 64 ∧
  ssig0 (BitVec.allOnes 64) = 0x01FFFFFFFFFFFFFF ∧ ssig1 (BitVec.allOnes 64) = 0x03FFFFFFFFFFFFFF ∧
  bsig0 1 = 0x0000001042000000 ∧ bsig0 0x0123456789ABCDEF = 0xB7C57A100C7EC1AB ∧
  bsig1 1 = 0x0004400000800000 ∧ bsig1 0x0123456789ABCDEF = 0x7703112333475567 ∧
  ssig0 1 = 0x8100000000000000 ∧ ssig0 0x0123456789ABCDEF = 0x6F92C77C6C4F1AA1 ∧
  ssig1 1 = 0x0000200000000008 ∧ ssig1 0x0123456789ABCDEF = 0x70A3460DBBD4317A

/-- 40 R125, R126: the first 16 schedule words are the block's big-endian words, every later one follows the recurrence,
and an all-zero block gives W[t] = 0 for every t; whatever W held before; with the rules' "abc" examples. -/
def Obligations.ScheduleFollowsTheRecurrence : Prop :=
  (∀ (B : List Byte) (w0 : Vector Word64 80),
    let w := expand (ingest B w0)
    (∀ t, t < 16 → wordAt w t = be64 B (8 * t)) ∧
    (∀ t, 16 ≤ t → t < 80 →
      wordAt w t = ssig1 (wordAt w (t - 2)) + wordAt w (t - 7) + ssig0 (wordAt w (t - 15)) + wordAt w (t - 16))) ∧
  (∀ (w0 : Vector Word64 80) (t : Nat), t < 80 → wordAt (expand (ingest (List.replicate 128 0) w0)) t = 0) ∧
  (let abc : List Byte := [0x61, 0x62, 0x63, 0x80] ++ List.replicate 123 0 ++ [0x18]
   ∀ w0 : Vector Word64 80,
    let w := expand (ingest abc w0)
    wordAt w 0 = 0x6162638000000000 ∧ (∀ t, 1 ≤ t → t ≤ 14 → wordAt w t = 0) ∧
    wordAt w 15 = 0x0000000000000018 ∧ wordAt w 16 = 0x6162638000000000 ∧ wordAt w 17 = 0x00030000000000c0 ∧
    wordAt w 79 = 0x92aeeed1a7bcf7d2)

/-- 40 R127 to R130: the working registers start as H, each of the 80 rounds in order updates them simultaneously as the
round's equations say, and the feed-forward adds them to H lane by lane; with the rules' examples. -/
def Obligations.CompressRunsEightyRounds : Prop :=
  ∀ (h : HashWords) (B : List Byte) (ws : Workspace),
    let w := expand (ingest B ws.w)
    ∃ R : Nat → Working,
      R 0 = ⟨h[0], h[1], h[2], h[3], h[4], h[5], h[6], h[7]⟩ ∧
      (∀ t, t < 80 →
        let r := R t
        let t1 := r.h + bsig1 r.e + choose r.e r.f r.g + roundConstant t + wordAt w t
        let t2 := bsig0 r.a + majority r.a r.b r.c
        R (t + 1) = { a := t1 + t2, b := r.a, c := r.b, d := r.c, e := r.d + t1, f := r.e, g := r.f, h := r.g }) ∧
      compress h B ws =
        #v[h[0] + (R 80).a, h[1] + (R 80).b, h[2] + (R 80).c, h[3] + (R 80).d,
           h[4] + (R 80).e, h[5] + (R 80).f, h[6] + (R 80).g, h[7] + (R 80).h] ∧
      (h = iv → (R 0).a = 0x6a09e667f3bcc908 ∧ (R 0).h = 0x5be0cd19137e2179) ∧
      (h = iv → B = [0x61, 0x62, 0x63, 0x80] ++ List.replicate 123 0 ++ [0x18] →
        (R 1).a = 0xf6afceb8bcfcddf5 ∧ (R 1).e = 0x58cb02347ab51f91 ∧
        (R 1).b = 0x6a09e667f3bcc908 ∧ (R 1).f = 0x510e527fade682d1 ∧
        (R 80).a = 0x73a54f399fa4b1b2 ∧ (compress h B ws)[0] = 0xddaf35a193617aba)

/-- 40 section 4: Compress is a function of H and the block alone (an inference the spec marks as its own: "Compress is a
pure function of (E.H, B)"), and it changes nothing of the engine but H. -/
def Obligations.CompressDependsOnHAndBlockOnly : Prop :=
  (∀ (h : HashWords) (B : List Byte) (ws ws' : Workspace),
    compress h B ws = compress h B ws' ∧ compressWorkspace h B ws = compressWorkspace h B ws') ∧
  (∀ (l : Lane) (B : List Byte), ∃ h', (l.compress B).eng = { l.eng with h := h' } ∧ h' = compressC l.eng.h B)

/-! ### The hash engine -/

/-- 41 R157: Absorb compresses every whole block of the stream BUF[0..POS−1] || M, in order, buffers the rest, counts
the input in SIZE and leaves ABSORBING; POS' = (POS + n) mod 128 and ⌊(POS + n)/128⌋ compressions are made. -/
def Obligations.AbsorbConsumesTheStream : Prop :=
  ∀ (l : Lane) (M : List Byte),
    let l' := l.absorb M
    let P := l.eng.buffered ++ M
    let k := (l.eng.pos.toNat + M.length) / 128
    l'.eng.h = foldBlocks k P l.eng.h ∧
    l'.eng.buffered = P.drop (128 * k) ∧
    l'.eng.pos.toNat = (l.eng.pos.toNat + M.length) % 128 ∧
    l'.eng.size = l.eng.size + BitVec.ofNat 128 M.length ∧
    l'.eng.fsm = .absorbing ∧
    l'.count = l.count + k

/-- 41 R158: Finalize compresses the stream BUF[0..POS−1] || 0x80 || zero fill || the 16-byte big-endian bit length,
one block when POS ≤ 111 and two otherwise; it leaves POS = 0, FSM = FINALIZED and SIZE unchanged, and the bit length
SIZE·8 is exact. -/
def Obligations.FinalizePadsTheStream : Prop :=
  ∀ l : Lane, l.eng.size.toNat ≤ 2 ^ 125 - 1 →
    let p := l.eng.pos.toNat
    let blocks := if p ≤ 111 then 1 else 2
    let len := BitVec.ofNat 128 (l.eng.size.toNat * 8)
    let P := l.eng.buffered ++ [0x80] ++ List.replicate (blocks * 128 - 17 - p) 0 ++ beBytes 16 len
    len.toNat = l.eng.size.toNat * 8 ∧
    P.length = blocks * 128 ∧
    l.finalize.eng.h = foldBlocks blocks P l.eng.h ∧
    l.finalize.eng.pos = 0 ∧ l.finalize.eng.fsm = .finalized ∧ l.finalize.eng.size = l.eng.size ∧
    l.finalize.count = l.count + blocks

/-- 41 R159: byte 8i + j of the digest is H[i][63−8j : 56−8j], so its big-endian words are H[0] to H[7]. -/
def Obligations.DigestEmitsBigEndianWords : Prop :=
  ∀ (h : HashWords) (i : Fin 8),
    (∀ j, j < 8 → (digest h).toList.getD (8 * i.val + j) 0 = (h[i]).extractLsb' (56 - 8 * j) 8) ∧
    be64 (digest h).toList (8 * i.val) = h[i]

/-- 41 R160: EngineInit sets H to the initial values, POS and SIZE to 0 and FSM to READY, and changes nothing else, in
every FSM state. -/
def Obligations.EngineInitStartsAnEngine : Prop :=
  ∀ l : Lane,
    l.init = { l with eng := { l.eng with
      h := #v[0x6a09e667f3bcc908, 0xbb67ae8584caa73b, 0x3c6ef372fe94f82b, 0xa54ff53a5f1d36f1,
              0x510e527fade682d1, 0x9b05688c2b3e6c1f, 0x1f83d9abfb41bd6b, 0x5be0cd19137e2179]
      pos := 0
      size := 0
      fsm := .ready } }

/-- 41 R150: the FSM of an engine moves only as the table says: to FINALIZED by reset, by a completed command to that
command's state, to FINALIZED by an E_BUS abort of a command that uses the engine, and not at all by a rejected command,
by a command that does not use the engine, or by the host. -/
def Obligations.EngineStatesMoveAsTabled : Prop :=
  (∀ (s t : State) (e : EngineId), step s = .next t → s.nextTurn = .reset → (t.dp.engine e).fsm = .finalized) ∧
  (∀ (s t : State) (e : EngineId), step s = .next t → s.nextTurn = .host → t.dp.engine e = s.dp.engine e) ∧
  (∀ (i : Instr) (s t : State) (e : EngineId), exec i s = .next t →
    (t.dp.engine e).fsm =
      if usesEngine i e = false then (s.dp.engine e).fsm
      else if t.win.errcode = .ok then fsmAfter i
      else if t.win.errcode = .bus then .finalized
      else (s.dp.engine e).fsm)

/-- 41 section 4: for any way of cutting a message of at most SIZE_MAX bytes into pieces, EngineInit, one Absorb a piece
and Finalize give the fold of C over the padded message, whatever the engine held before (inferences the spec marks as
its own: "Finalize returns Digest(H_N)", "the engine's next outputs depend only on the bytes absorbed after the
init"). -/
def Obligations.AnyChunkingHashesTheMessage : Prop :=
  ∀ (l : Lane) (Ms : List (List Byte)), Ms.flatten.length ≤ 2 ^ 125 - 1 →
    digest (Ms.foldl (fun l M => l.absorb M) l.init).finalize.eng.h = sha512 Ms.flatten

/-- 41 section 4: two Absorbs leave what one Absorb of the joined bytes leaves (an inference the spec marks as its own:
"must be observably identical to one `update(P)` call"), with as many compressions. -/
def Obligations.SplitUpdatesAreInvisible : Prop :=
  ∀ (l : Lane) (M₁ M₂ : List Byte),
    let a := (l.absorb M₁).absorb M₂
    let b := l.absorb (M₁ ++ M₂)
    a.eng.h = b.eng.h ∧ a.eng.pos = b.eng.pos ∧ a.eng.size = b.eng.size ∧ a.eng.buffered = b.eng.buffered ∧
    a.eng.fsm = b.eng.fsm ∧ a.count = b.count

/-! ### The commands -/

/-- 41 section 3, HASH_INIT: from every state, on either engine; nothing else of the data path and no memory changes;
from reset, HASH_INIT e1 leaves STATUS = 0x00000022. That the scratch and the latch, which the spec leaves unspecified
between commands, are kept is the model's (log 8). -/
def Obligations.HashInitCompletes : Prop :=
  (∀ (e : EngineId) (s : State), ∃ t, exec (.hashInit e) s = .next t ∧
    t.dp = s.dp.setEngine e { s.dp.engine e with h := iv, pos := 0, size := 0, fsm := .ready } ∧
    t.mem = s.mem ∧ t.draws = s.draws ∧ t = { s.complete .ok with dp := t.dp }) ∧
  (∃ t, exec (.hashInit .e1) (State.reset.issue 0x00000101) = .next t ∧ t.status = 0x00000022)

/-- 41 section 3, HASH_UPDATE: on an engine that is not FINALIZED, within SIZE_MAX and with a readable region (an
empty one needs no memory), the engine absorbs the bytes; SIZE grows by the exact length, FSM is ABSORBING; the other
engine, the context and data memory stay. That the latch is kept, which the spec leaves unspecified with no command
pending, is the model's (log 8). -/
def Obligations.HashUpdateCompletes : Prop :=
  ∀ (e : EngineId) (s : State),
    (s.dp.engine e).fsm ≠ .finalized → (s.dp.engine e).size.toNat + s.latch.srcLen.toNat ≤ 2 ^ 125 - 1 →
    s.usable s.latch.src →
    ∃ t, exec (.hashUpdate e) s = .next t ∧
      t = { s.complete .ok with dp := t.dp } ∧
      t.dp.engine e = ((s.dp.lane e).absorb (s.bytesAt s.latch.src)).eng ∧
      (t.dp.engine e).size.toNat = (s.dp.engine e).size.toNat + s.latch.srcLen.toNat ∧
      (t.dp.engine e).fsm = .absorbing ∧
      (∀ e', e' ≠ e → t.dp.engine e' = s.dp.engine e') ∧
      t.dp.ctxI = s.dp.ctxI ∧ t.dp.ctxO = s.dp.ctxO ∧ t.dp.ctxValid = s.dp.ctxValid ∧
      (s.latch.srcLen = 0 → (t.dp.engine e).h = (s.dp.engine e).h ∧ (t.dp.engine e).pos = (s.dp.engine e).pos ∧
        (t.dp.engine e).size = (s.dp.engine e).size ∧ (t.dp.engine e).buffered = (s.dp.engine e).buffered)

/-- 41 section 3, HASH_FINALIZE: on an engine that is not FINALIZED and with a writable destination, the digest is
written there, the engine is FINALIZED, and no other byte, the other engine and the context stay. That the latch is
kept, which the spec leaves unspecified with no command pending, is the model's (log 8). -/
def Obligations.HashFinalizeCompletes : Prop :=
  ∀ (e : EngineId) (s : State),
    (s.dp.engine e).fsm ≠ .finalized → s.usable s.latch.dst →
    ∃ t, exec (.hashFinalize e) s = .next t ∧
      t = { s.complete .ok with dp := t.dp, mem := t.mem } ∧
      t.dp.engine e = (s.dp.lane e).finalize.eng ∧
      t.bytesAt s.latch.dst = (digest (s.dp.lane e).finalize.eng.h).toList ∧
      (t.dp.engine e).fsm = .finalized ∧
      (∀ a, s.latch.dst.holds a = false → t.mem.read a = s.mem.read a) ∧
      (∀ e', e' ≠ e → t.dp.engine e' = s.dp.engine e') ∧
      t.dp.ctxI = s.dp.ctxI ∧ t.dp.ctxO = s.dp.ctxO ∧ t.dp.ctxValid = s.dp.ctxValid

/-- 41 section 3, HASH_ONESHOT: from every FSM state, with readable source and writable destination, which may
overlap, the 64 bytes at DST become the SHA-512 digest of the bytes SRC held before; no other byte changes. That the
latch is kept, which the spec leaves unspecified with no command pending, is the model's (log 8). -/
def Obligations.OneshotWritesTheSha512Digest : Prop :=
  ∀ (e : EngineId) (s : State), s.usable s.latch.src → s.usable s.latch.dst →
    ∃ t, exec (.hashOneshot e) s = .next t ∧
      t = { s.complete .ok with dp := t.dp, mem := t.mem } ∧
      t.bytesAt s.latch.dst = (sha512 (s.bytesAt s.latch.src)).toList ∧
      (t.dp.engine e).fsm = .finalized ∧
      (∀ a, s.latch.dst.holds a = false → t.mem.read a = s.mem.read a) ∧
      (∀ e', e' ≠ e → t.dp.engine e' = s.dp.engine e') ∧
      t.dp.ctxI = s.dp.ctxI ∧ t.dp.ctxO = s.dp.ctxO ∧ t.dp.ctxValid = s.dp.ctxValid

/-- 42 section 2, MAC_INIT: with a readable key region, of any length, CTX_I and CTX_O are the states that absorbed
the inner and the outer pad block of the key, CTX_VALID = 1, E0 and E1 equal the snapshots and are ABSORBING; no
memory changes. That the latch is kept, which the spec leaves unspecified with no command pending, is the model's (log
8). -/
def Obligations.MacInitBuildsTheContext : Prop :=
  ∀ s : State, s.usable s.latch.src →
    ∃ t, exec .macInit s = .next t ∧
      t = { s.complete .ok with dp := t.dp } ∧
      (let padded (x : Byte) := (keyBytes (s.bytesAt s.latch.src)).map fun b => b ^^^ x
       t.dp.ctxI = { h := compressC iv (padded 0x36), pos := 0, size := 128 } ∧
       t.dp.ctxO = { h := compressC iv (padded 0x5c), pos := 0, size := 128 }) ∧
      t.dp.ctxValid = true ∧
      t.dp.e0.snapshot = t.dp.ctxI ∧ t.dp.e1.snapshot = t.dp.ctxO ∧
      t.dp.e0.fsm = .absorbing ∧ t.dp.e1.fsm = .absorbing

/-- 42 section 2, MAC_CLONE: with a valid context, E0 and E1 take H, POS and SIZE of CTX_I and CTX_O and are
ABSORBING, from any FSM state; BUF, the context and memory stay. That the scratch and the latch, which the spec leaves
unspecified between commands, are kept is the model's (log 8). -/
def Obligations.MacCloneCopiesTheSnapshots : Prop :=
  ∀ s : State, s.dp.ctxValid = true →
    ∃ t, exec .macClone s = .next t ∧
      t = { s.complete .ok with dp := { s.dp with
        e0 := { s.dp.e0 with h := s.dp.ctxI.h, pos := s.dp.ctxI.pos, size := s.dp.ctxI.size, fsm := .absorbing }
        e1 := { s.dp.e1 with h := s.dp.ctxO.h, pos := s.dp.ctxO.pos, size := s.dp.ctxO.size, fsm := .absorbing } } }

/-- 42 section 2, MAC_COMPUTE: with a valid context, a readable message and a writable destination, which may overlap,
the 64 bytes at DST become the tag under the current context; E0 and E1 are FINALIZED, the context stays, no other
byte changes. That the latch is kept, which the spec leaves unspecified with no command pending, is the model's (log
8). -/
def Obligations.MacComputeWritesTheTag : Prop :=
  ∀ s : State, s.dp.ctxValid = true → s.usable s.latch.src → s.usable s.latch.dst →
    ∃ t, exec .macCompute s = .next t ∧
      t = { s.complete .ok with dp := t.dp, mem := t.mem } ∧
      t.bytesAt s.latch.dst = ((s.dp.macTag (s.bytesAt s.latch.src)).digest .e1).toList ∧
      t.dp.e0.fsm = .finalized ∧ t.dp.e1.fsm = .finalized ∧
      t.dp.ctxI = s.dp.ctxI ∧ t.dp.ctxO = s.dp.ctxO ∧ t.dp.ctxValid = true ∧
      (∀ a, s.latch.dst.holds a = false → t.mem.read a = s.mem.read a)

/-- 42 section 3: under the context built from a key K, the tag of M is SHA512(OPAD || SHA512(IPAD || M)), whatever the
engines did since (an inference the spec marks as its own: "MAC_COMPUTE writes T = SHA512(OPAD || SHA512(IPAD ||
M))"). -/
def Obligations.MacTagIsHmac : Prop :=
  ∀ (K M : List Byte) (d d' : Datapath), K.length < 2 ^ 32 → M.length < 2 ^ 32 →
    d'.ctxI = (d.buildContext K).ctxI → d'.ctxO = (d.buildContext K).ctxO →
    (d'.macTag M).digest .e1 = hmac K M

/-- 42 section 2, MAC_CLONE's purpose: MAC_CLONE, the message in pieces to E0, its digest to E1 and E1 finalized give the
tag of the whole message (an inference the spec marks as its own: "The result equals MAC_COMPUTE over the concatenated
message"). -/
def Obligations.StreamedMacEqualsOneCommand : Prop :=
  ∀ (d : Datapath) (Ms : List (List Byte)),
    let cloned := (d.clone d.ctxI .e0).clone d.ctxO .e1
    let fed := Ms.foldl (fun d M => d.onEngine .e0 (Lane.absorb M)) cloned
    let inner := fed.onEngine .e0 Lane.finalize
    let outer := (inner.onEngine .e1 (Lane.absorb (inner.digest .e0).toList)).onEngine .e1 Lane.finalize
    outer.digest .e1 = (d.macTag Ms.flatten).digest .e1

/-- 43 section 2, DERIVE_KEY: with room for the counter and usable regions, DST becomes the XOR of the U chain of the
password, the salt followed by 00 00 00 01, and ITER (as in 43 section 3); AUX_LEN grows by 4 exactly, the counter
bytes not under DST stay in memory, no other byte changes; E0 and E1 are FINALIZED and CTX_VALID = 1. That the latch
is kept, which the spec leaves unspecified with no command pending, is the model's (log 8). -/
def Obligations.DeriveKeyWritesTheDerivedKey : Prop :=
  ∀ s : State, s.latch.auxLen.toNat + 4 ≤ s.latch.auxCap.toNat →
    s.usable s.latch.src → s.usable s.latch.salt → s.usable s.latch.dst →
    ∃ t, exec .deriveKey s = .next t ∧
      t = { s.complete .ok with
        win := { (s.complete .ok).win with auxLen := s.latch.auxLen + 4 }, dp := t.dp, mem := t.mem } ∧
      t.bytesAt s.latch.dst =
        (derivedKey (s.bytesAt s.latch.src)
          (s.mem.readBytes s.latch.auxAddr.toNat s.latch.auxLen.toNat ++ [0x00, 0x00, 0x00, 0x01])
          s.latch.iter.toNat).toList ∧
      t.win.auxLen.toNat = s.latch.auxLen.toNat + 4 ∧
      (∀ a, s.latch.counter.holds a = true → s.latch.dst.holds a = false →
        t.mem.read a = ([0x00, 0x00, 0x00, 0x01] : List Byte).getD (a - s.latch.counter.base) 0) ∧
      (∀ a, s.latch.counter.holds a = false → s.latch.dst.holds a = false → t.mem.read a = s.mem.read a) ∧
      t.dp.e0.fsm = .finalized ∧ t.dp.e1.fsm = .finalized ∧ t.dp.ctxValid = true

/-- 43 section 3: a successful DERIVE_KEY leaves the context MAC_INIT on the password would leave (an inference the spec
marks as its own: "CTX_I and CTX_O equal what MAC_INIT on the password would leave"). -/
def Obligations.DeriveKeyLeavesThePasswordContext : Prop :=
  ∀ s t : State, exec .deriveKey s = .next t → t.win.errcode = .ok →
    ∃ u, exec .macInit s = .next u ∧ u.win.errcode = .ok ∧
      t.dp.ctxI = u.dp.ctxI ∧ t.dp.ctxO = u.dp.ctxO ∧ t.dp.ctxValid = true ∧ u.dp.ctxValid = true

/-- 43 R224: the loop runs max(c, 1) MAC computations, and ITER = 0 is no error and gives the result of ITER = 1. The
two runs start at one number of the next free value, so that what an E_BUS abort leaves unspecified is drawn alike in
both; this form of comparison is the model's (log 7), and that the hardware draws alike is not claimed. -/
def Obligations.IterationCountsZeroAndOneAgree : Prop :=
  (∀ (S : List Byte) (c : Nat) (d : Datapath),
    d.stretch S c = (d.stretchStart S).stretchLoop (max c 1 - 1)) ∧
  (∀ s : State, ∃ t : State,
    exec .deriveKey { s with latch := { s.latch with iter := 0 } } =
      .next { t with latch := { s.latch with iter := 0 } } ∧
    exec .deriveKey { s with latch := { s.latch with iter := 1 } } =
      .next { t with latch := { s.latch with iter := 1 } })

/-- 43 R221: the capacity check is exact, changes nothing when it fails, always fails from L_AUX_LEN = 2^32 − 4 on, so
that the AUX_LEN written back fits; and the capacity beyond L_AUX_LEN + 4 is neither checked nor touched. The two runs
of the last clause start at one number of the next free value, so that what an E_BUS abort leaves unspecified is drawn
alike in both; this form of comparison is the model's (log 7), and that the hardware draws alike is not claimed. -/
def Obligations.SaltCapacityCheckIsExact : Prop :=
  (∀ s : State, s.latch.auxCap.toNat < s.latch.auxLen.toNat + 4 → exec .deriveKey s = .next (s.complete .saltCap)) ∧
  (∀ s : State, 2 ^ 32 - 4 ≤ s.latch.auxLen.toNat → exec .deriveKey s = .next (s.complete .saltCap)) ∧
  (∀ s t : State, s.latch.auxLen.toNat + 4 ≤ s.latch.auxCap.toNat → exec .deriveKey s = .next t →
    t.win.errcode ≠ .saltCap ∧ (t.win.errcode = .ok → t.win.auxLen.toNat = s.latch.auxLen.toNat + 4)) ∧
  (∀ (s : State) (cap : Word32), s.latch.auxLen.toNat + 4 ≤ s.latch.auxCap.toNat →
    s.latch.auxLen.toNat + 4 ≤ cap.toNat →
    ∃ t, exec .deriveKey s = .next t ∧
      exec .deriveKey { s with latch := { s.latch with auxCap := cap } } =
        .next { t with latch := { t.latch with auxCap := cap } })

/-- 10 R39: CTX_VALID is set by a MAC_INIT or DERIVE_KEY that completes with E_OK and cleared by one that aborts with
E_BUS; nothing else changes it but reset; STATUS[8] shows it; MAC_COMPUTE and MAC_CLONE without it are rejected with
E_NO_CTX. No other command changes CTX_I and CTX_O. -/
def Obligations.ContextChangesOnlyByItsBuilders : Prop :=
  (∀ (i : Instr) (s t : State), exec i s = .next t →
    t.dp.ctxValid =
      (if buildsContext i = true ∧ t.win.errcode = .ok then true
       else if buildsContext i = true ∧ t.win.errcode = .bus then false
       else s.dp.ctxValid) ∧
    (buildsContext i = false → t.dp.ctxI = s.dp.ctxI ∧ t.dp.ctxO = s.dp.ctxO)) ∧
  (∀ s t : State, step s = .next t → s.nextTurn = .host →
    t.dp.ctxValid = s.dp.ctxValid ∧ t.dp.ctxI = s.dp.ctxI ∧ t.dp.ctxO = s.dp.ctxO) ∧
  (∀ s t : State, step s = .next t → s.nextTurn = .engine →
    (s.win.busy = false ∨ ∃ why, decode s.latch.cmd = .illegal why) → t.dp = s.dp) ∧
  (∀ s : State, s.dp.ctxValid = false →
    exec .macCompute s = .next (s.complete .noCtx) ∧ exec .macClone s = .next (s.complete .noCtx)) ∧
  (∀ s : State, s.status.getLsbD 8 = s.dp.ctxValid) ∧
  (∀ s : State, s.resetEvent.dp.ctxValid = false) ∧ State.reset.dp.ctxValid = false

/-- 10 section 4: a HASH_* command acts on its engine alone: the other engine passes through it unread and unchanged.
The two runs start at one number of the next free value, so that what an E_BUS abort leaves unspecified is drawn alike
in both; this form of comparison is the model's (log 7), and that the hardware draws alike is not claimed. -/
def Obligations.HashCommandsKeepToTheirEngine : Prop :=
  ∀ (i : Instr) (e : EngineId) (s : State) (x : Engine), usesEngine i e = false →
    ∃ t, exec i s = .next t ∧ t.dp.engine e = s.dp.engine e ∧
      exec i { s with dp := s.dp.setEngine e x } = .next { t with dp := t.dp.setEngine e x }

/-- 70 section 6: the compressions of every command that completes with E_OK, and none for a rejected one (counts the
spec marks as derived: "the exact number of compressions per command"; the counter is the model's own, log 13). The
premise on the context holds in every state that meets the invariant. -/
def Obligations.CommandWorkIsExact : Prop :=
  ∀ (i : Instr) (s t : State), s.dp.contextSound → exec i s = .next t →
    (t.win.errcode = .ok → t.dp.compressions = s.dp.compressions + commandWork s i) ∧
    (precheck s i ≠ .ok → t.dp.compressions = s.dp.compressions)

/-! ### Reset and the schedule -/

/-- 10 R43: the values after reset, in the state of reset and after the reset event from any state. -/
def Obligations.ResetLeavesTheGivenValues : Prop :=
  ∀ s t : State, t = State.reset ∨ t = s.resetEvent →
    (t.readReg (some .id)).1 = 0x53353132 ∧ (t.readReg (some .ctrl)).1 = 0 ∧ (t.readReg (some .status)).1 = 0x000000A0 ∧
    (t.readReg (some .srcAddr)).1 = 0 ∧ (t.readReg (some .srcLen)).1 = 0 ∧ (t.readReg (some .dstAddr)).1 = 0 ∧
    (t.readReg (some .auxAddr)).1 = 0 ∧ (t.readReg (some .auxLen)).1 = 0 ∧ (t.readReg (some .auxCap)).1 = 0 ∧
    (t.readReg (some .iter)).1 = 0 ∧ t.win.busy = false ∧ t.win.done = false ∧ t.win.err = false ∧
    t.win.ovr = false ∧ t.win.errcode = .ok ∧ t.irq = false ∧
    (∀ e : EngineId, t.dp.engine e =
      ({ h := #v[0, 0, 0, 0, 0, 0, 0, 0], buf := Vector.replicate 128 0, pos := 0, size := 0,
         fsm := .finalized } : Engine)) ∧
    t.dp.ctxI = ({ h := #v[0, 0, 0, 0, 0, 0, 0, 0], pos := 0, size := 0 } : Snapshot) ∧
    t.dp.ctxO = ({ h := #v[0, 0, 0, 0, 0, 0, 0, 0], pos := 0, size := 0 } : Snapshot) ∧
    t.dp.ctxValid = false ∧
    (s.win.busy = false → s.resetEvent.mem = s.mem)

/-- 70 R271: reset while a command is BUSY abandons it: no completion, no interrupt, AUX_LEN at its reset value, and
data memory outside the command's write set unchanged. -/
def Obligations.ResetAbandonsTheRunningCommand : Prop :=
  ∀ s : State, s.win.busy = true → s.nextTurn = .reset →
    ∃ t, step s = .next t ∧ t.win.busy = false ∧ t.win.done = false ∧ t.irq = false ∧ t.win.auxLen = 0 ∧
      (∀ i a, decode s.latch.cmd = .command i → anyHolds (writeSet s.latch i) a = false →
        t.mem.read a = s.mem.read a) ∧
      (∀ why, decode s.latch.cmd = .illegal why → t.mem = s.mem)

/-- 10 section 8: from the reset values of the engines and the context, exactly these commands succeed (an inference the
spec marks as its own: "the only commands that succeed from reset are the following"). -/
def Obligations.CommandsFromReset : Prop :=
  ∀ s : State, (∀ e : EngineId, s.dp.engine e = Engine.reset) → s.dp.ctxValid = false → ∀ e : EngineId,
    exec (.hashUpdate e) s = .next (s.complete .finalized) ∧
    exec (.hashFinalize e) s = .next (s.complete .finalized) ∧
    exec .macCompute s = .next (s.complete .noCtx) ∧
    exec .macClone s = .next (s.complete .noCtx) ∧
    (∃ t, exec (.hashInit e) s = .next t ∧ t.win.errcode = .ok) ∧
    (s.usable s.latch.src → s.usable s.latch.dst →
      ∃ t, exec (.hashOneshot e) s = .next t ∧ t.win.errcode = .ok) ∧
    (s.usable s.latch.src → ∃ t, exec .macInit s = .next t ∧ t.win.errcode = .ok) ∧
    (s.usable s.latch.src → s.usable s.latch.dst → s.usable s.latch.salt →
      s.latch.auxLen.toNat + 4 ≤ s.latch.auxCap.toNat →
      ∃ t, exec .deriveKey s = .next t ∧ t.win.errcode = .ok)

/-- 70 section 4: whose turn is next, and what the step then is. At the engine's turn it is the latched command's
meaning, the turn taken off the schedule, or E_BAD_CMD for an illegal word; while BUSY = 0 the turn passes. At the host's
turn it is the first operation of the host's list, taken off it; a wait (30 R99) reads STATUS and stays while bit 0 of the
value is 1; with no operation left the turn passes. At a reset turn it is the reset event. A placed command is what the
very next step runs. The schedule, the host's list and reset as a turn (log 1), the order after the schedule (log 2), the
placing of a command by withFetchWord (log 11), the record of the values read (log 14) and the turns that pass (log 19)
are the model's choices. -/
def Obligations.StepRunsTheLatchedCommand : Prop :=
  (∀ (s : State) (i : Instr), s.nextTurn = .engine → s.win.busy = true → decode s.latch.cmd = .command i →
    step s = exec i s.popTurn) ∧
  (∀ (s : State) (i : Instr) (w : Word32), decode w = .command i →
    step (s.withFetchWord 32 w.toNat) = exec i (s.issue w)) ∧
  (∀ s : State, s.nextTurn = .engine → s.win.busy = false → step s = .next s.popTurn) ∧
  (∀ (s : State) (why : IllegalWord), s.nextTurn = .engine → s.win.busy = true → decode s.latch.cmd = .illegal why →
    step s = .next (s.popTurn.complete .badCmd)) ∧
  (∀ (s : State) (op : HostOp) (rest : List HostOp), s.nextTurn = .host → s.host.ops = op :: rest →
    let u : State := { s with host := { s.host with sched := s.host.sched.tail, ops := rest } }
    let v := (s.readReg (some .status)).1
    step s =
      match op with
      | .regRead addr width => u.hostRegRead addr width
      | .regWrite addr width x => u.hostRegWrite addr width x
      | .memRead a => u.hostMemRead a
      | .memWrite a b => u.hostMemWrite a b
      | .wait => .next { u with
          host := { u.host with
            ops := if v.getLsbD 0 then .wait :: rest else rest
            reads := .reg (s.plat.regBase + 0x08) v :: s.host.reads }
          draws := (s.readReg (some .status)).2.draws }) ∧
  (∀ s : State, (s.readReg (some .status)).1.getLsbD 0 = s.win.busy) ∧
  (∀ s : State, s.nextTurn = .host → s.host.ops = [] → step s = .next s.popTurn) ∧
  (∀ s : State, s.nextTurn = .reset → step s = .next s.popTurn.resetEvent) ∧
  (∀ (s : State) (t : Turn) (rest : List Turn), s.host.sched = t :: rest → s.nextTurn = t) ∧
  (∀ s : State, s.host.sched = [] → s.nextTurn = if s.win.busy then .engine else .host)

/-- 70 section 4, weak fairness as the model has it (log 1, log 2): a BUSY command completes at the first step after a schedule
of host turns, unless a host access before it stops the machine. -/
def Obligations.BusyCommandCompletesAfterHostTurns : Prop :=
  ∀ (k : Nat) (s : State), s.win.busy = true → s.host.sched = List.replicate k .host →
    match runSteps k s with
    | .next t => t.win.busy = true ∧ t.latch = s.latch ∧
        ∃ u, step t = .next u ∧ u.win.busy = false ∧ u.win.done = true
    | .fault _ => True
    | .refused _ => True

/-- The invariant holds after reset: canonical memory, SIZE within SIZE_MAX and POS = SIZE mod 128 in an engine that is
not FINALIZED, a sound context and agreeing STATUS flags. It rests on the reset values and on the empty memory of
`State.reset` (log 3). -/
def Obligations.ResetMeetsTheInvariant : Prop :=
  State.reset.Inv

/-- Every step keeps the invariant, from every state that meets it: canonical memory (the model's, log 3); in an engine
that is not FINALIZED, SIZE ≤ 2^125 − 1 and POS = SIZE mod 128 (10 section 4; that R33's bound is said of no FINALIZED
engine is log 9); a valid context holds POS = 0 and SIZE = 128 (42 section 1); nothing is reported while BUSY (10
section 2). -/
def Obligations.StepKeepsTheInvariant : Prop :=
  ∀ s t : State, s.Inv → step s = .next t → t.Inv

/-- 10 section 7, 60 section 2: what the host cannot see stays unseen. Two states equal but for the scratch, BUF beyond
POS, the contents of FINALIZED engines, the snapshots while CTX_VALID = 0 and the latch while BUSY = 0 take steps with
the same outcome, alike again, and show the same observation (70 R287), interrupt line and read values. The numbers of
the next free values are equal in the two, so that their draws are (log 7). The premise is the invariant: a valid context
holds POS = 0, so that a clone takes nothing from the stale BUF. -/
def Obligations.HiddenStateIsUnobservable : Prop :=
  ∀ s t : State, s.Inv → s.alike t →
    outcomesAlike (step s) (step t) ∧ s.observe = t.observe ∧ s.irq = t.irq ∧ s.host.reads = t.host.reads
end

