-- ==== Sys2Proof/Laws/Memory.lean ====
section
/-! SUPPORT. Data memory: a read after a write, what a write leaves alone, the canonical form kept by every operation,
and what MemRead and MemWrite can answer. -/

namespace Sys2Proof.Machine

/-! ### Reads and writes -/

@[simp] theorem Memory.read_nil (x : Nat) : Memory.read [] x = unlistedByte := rfl

theorem Memory.read_filter_ne (m : Memory) {a x : Nat} (h : x ≠ a) :
    Memory.read (m.filter fun c => c.1 ≠ a) x = m.read x := by
  induction m with
  | nil => rfl
  | cons c rest ih =>
    obtain ⟨k, v⟩ := c
    by_cases hk : k = a
    · subst hk
      simpa [Memory.read, Ne.symm h] using ih
    · simp only [Memory.read] at ih ⊢
      rw [List.filter_cons_of_pos (by simpa using hk), Memory.read, ih]

theorem Memory.read_filter_self (m : Memory) (a : Nat) :
    Memory.read (m.filter fun c => c.1 ≠ a) a = unlistedByte := by
  induction m with
  | nil => rfl
  | cons c rest ih =>
    obtain ⟨k, v⟩ := c
    by_cases hk : k = a
    · subst hk
      simpa using ih
    · rw [List.filter_cons_of_pos (by simpa using hk), Memory.read, if_neg hk, ih]

theorem Memory.read_insert_ne (m : Memory) {a x : Nat} (h : x ≠ a) (b : Byte) :
    Memory.read (m.insert a b) x = m.read x := by
  induction m with
  | nil => simp [Memory.insert, Memory.read, Ne.symm h]
  | cons c rest ih =>
    obtain ⟨k, v⟩ := c
    unfold Memory.insert
    split
    · simp [Memory.read, Ne.symm h]
    · simp [Memory.read, ih]

theorem Memory.read_insert_self (m : Memory) (a : Nat) (b : Byte) (h : ∀ c ∈ m, c.1 ≠ a) :
    Memory.read (m.insert a b) a = b := by
  induction m with
  | nil => simp [Memory.insert, Memory.read]
  | cons c rest ih =>
    obtain ⟨k, v⟩ := c
    have hk : k ≠ a := h (k, v) (by simp)
    unfold Memory.insert
    split
    · simp [Memory.read]
    · rw [Memory.read, if_neg hk]
      exact ih fun c hc => h c (by simp [hc])

/-- A read after a write to the same address gives the byte written. -/
@[simp] theorem Memory.read_write_self (m : Memory) (a : Nat) (b : Byte) : (m.write a b).read a = b := by
  unfold Memory.write
  simp only
  split
  · next h => rw [Memory.read_filter_self, h]
  · exact Memory.read_insert_self _ a b fun c hc => by simpa using (List.mem_filter.mp hc).2

/-- A write leaves every other address alone. -/
theorem Memory.read_write_ne (m : Memory) {a x : Nat} (h : x ≠ a) (b : Byte) : (m.write a b).read x = m.read x := by
  unfold Memory.write
  simp only
  split
  · exact Memory.read_filter_ne m h
  · rw [Memory.read_insert_ne _ h, Memory.read_filter_ne m h]

@[simp] theorem Memory.readBytes_length (m : Memory) (a n : Nat) : (m.readBytes a n).length = n := by
  simp [Memory.readBytes]

theorem Memory.readBytes_getD (m : Memory) (a n i : Nat) (h : i < n) : (m.readBytes a n).getD i 0 = m.read (a + i) := by
  simp [Memory.readBytes, h]

/-- `writeBytes` leaves every address outside its range alone. -/
theorem Memory.read_writeBytes_outside (bs : List Byte) (m : Memory) (a x : Nat) (h : x < a ∨ a + bs.length ≤ x) :
    (m.writeBytes a bs).read x = m.read x := by
  induction bs generalizing m a with
  | nil => rfl
  | cons b bs ih =>
    simp only [List.length_cons] at h
    rw [Memory.writeBytes, ih _ _ (by omega)]
    split
    · exact Memory.read_write_ne m (by omega) b
    · rfl

/-- `writeBytes` writes its bytes, where the addresses exist. -/
theorem Memory.read_writeBytes_inside (bs : List Byte) (m : Memory) (a i : Nat) (hi : i < bs.length)
    (h : a + bs.length ≤ addressSpace) : (m.writeBytes a bs).read (a + i) = bs.getD i 0 := by
  induction bs generalizing m a i with
  | nil => simp at hi
  | cons b bs ih =>
    simp only [List.length_cons] at h hi
    rw [Memory.writeBytes]
    cases i with
    | zero =>
      rw [Memory.read_writeBytes_outside _ _ _ _ (by omega), if_pos (by omega)]
      simp
    | succ i =>
      have := ih (if a < addressSpace then m.write a b else m) (a + 1) i (by omega) (by omega)
      rw [show a + (i + 1) = a + 1 + i by omega, this]
      simp

/-- Reading back what `writeBytes` wrote. -/
theorem Memory.readBytes_writeBytes (bs : List Byte) (m : Memory) (a : Nat) (h : a + bs.length ≤ addressSpace) :
    (m.writeBytes a bs).readBytes a bs.length = bs := by
  apply List.ext_getElem (by simp)
  intro i h1 h2
  have := Memory.read_writeBytes_inside bs m a i h2 h
  simp only [Memory.readBytes, List.getElem_map, List.getElem_range]
  rw [this, List.getD_eq_getElem _ _ h2]

/-! ### The canonical form -/

theorem Memory.wfFrom_cons {lo : Option Nat} {k : Nat} {v : Byte} {rest : Memory} :
    Memory.wfFrom lo ((k, v) :: rest) = true ↔
      (∀ l, lo = some l → l < k) ∧ k < addressSpace ∧ v ≠ unlistedByte ∧ Memory.wfFrom (some k) rest = true := by
  cases lo <;> simp [Memory.wfFrom, and_assoc]

theorem Memory.wfFrom_weaken {m : Memory} {lo lo' : Option Nat} (h : Memory.wfFrom lo m = true)
    (hl : ∀ l, lo' = some l → ∃ l₀, lo = some l₀ ∧ l ≤ l₀) : Memory.wfFrom lo' m = true := by
  cases m with
  | nil => rfl
  | cons c rest =>
    obtain ⟨k, v⟩ := c
    rw [Memory.wfFrom_cons] at h ⊢
    refine ⟨fun l hl' => ?_, h.2⟩
    obtain ⟨l₀, h0, hle⟩ := hl l hl'
    exact lt_of_le_of_lt hle (h.1 l₀ h0)

theorem Memory.wfFrom_filter (a : Nat) (m : Memory) (lo : Option Nat) (h : Memory.wfFrom lo m = true) :
    Memory.wfFrom lo (m.filter fun c => c.1 ≠ a) = true := by
  induction m generalizing lo with
  | nil => rfl
  | cons c rest ih =>
    obtain ⟨k, v⟩ := c
    rw [Memory.wfFrom_cons] at h
    by_cases hk : k = a
    · rw [List.filter_cons_of_neg (by simpa using hk)]
      exact Memory.wfFrom_weaken (ih _ h.2.2.2) fun l hl => ⟨k, rfl, le_of_lt (h.1 l hl)⟩
    · rw [List.filter_cons_of_pos (by simpa using hk), Memory.wfFrom_cons]
      exact ⟨h.1, h.2.1, h.2.2.1, ih _ h.2.2.2⟩

theorem Memory.wfFrom_insert (a : Nat) (b : Byte) (ha : a < addressSpace) (hb : b ≠ unlistedByte) (m : Memory)
    (lo : Option Nat) (hlo : ∀ l, lo = some l → l < a) (hne : ∀ c ∈ m, c.1 ≠ a) (h : Memory.wfFrom lo m = true) :
    Memory.wfFrom lo (m.insert a b) = true := by
  induction m generalizing lo with
  | nil => exact Memory.wfFrom_cons.mpr ⟨hlo, ha, hb, rfl⟩
  | cons c rest ih =>
    obtain ⟨k, v⟩ := c
    have hk : k ≠ a := hne (k, v) (by simp)
    rw [Memory.wfFrom_cons] at h
    unfold Memory.insert
    split
    · next hlt =>
      exact Memory.wfFrom_cons.mpr ⟨hlo, ha, hb, Memory.wfFrom_cons.mpr
        ⟨fun l hl => by cases hl; exact hlt, h.2⟩⟩
    · next hge =>
      refine Memory.wfFrom_cons.mpr ⟨h.1, h.2.1, h.2.2.1, ?_⟩
      exact ih (some k) (fun l hl => by cases hl; omega) (fun c hc => hne c (by simp [hc])) h.2.2.2

/-- A write keeps the canonical form. -/
theorem Memory.wf_write {m : Memory} (h : m.wf = true) {a : Nat} (ha : a < addressSpace) (b : Byte) :
    (m.write a b).wf = true := by
  unfold Memory.write Memory.wf at *
  simp only
  split
  · exact Memory.wfFrom_filter a m none h
  · next hb =>
    exact Memory.wfFrom_insert a b ha hb _ none (by simp)
      (fun c hc => by simpa using (List.mem_filter.mp hc).2) (Memory.wfFrom_filter a m none h)

/-- Writing bytes keeps the canonical form. -/
theorem Memory.wf_writeBytes {m : Memory} (h : m.wf = true) (a : Nat) (bs : List Byte) :
    (m.writeBytes a bs).wf = true := by
  induction bs generalizing m a with
  | nil => exact h
  | cons b bs ih =>
    rw [Memory.writeBytes]
    apply ih
    split
    · next ha => exact Memory.wf_write h ha b
    · exact h

/-- Making a region unspecified keeps the canonical form. -/
theorem State.wf_drawRegion {s : State} (h : s.mem.wf = true) (r : Region) : (s.drawRegion r).mem.wf = true :=
  Memory.wf_writeBytes h _ _

/-- Making regions unspecified keeps the canonical form. -/
theorem State.wf_drawRegions {s : State} (h : s.mem.wf = true) (rs : List Region) :
    (State.drawRegions rs s).mem.wf = true := by
  induction rs generalizing s with
  | nil => exact h
  | cons r rs ih => exact ih (State.wf_drawRegion h r)

/-- Memory is in canonical form after reset. -/
theorem State.reset_mem_wf : State.reset.mem.wf = true := rfl

/-! ### The DMA port -/

theorem Platform.admitsRegion_iff (p : Platform) (r : Region) :
    p.admitsRegion r = true ↔ ∀ i, i < r.size → p.admits (r.base + i) = true := by
  simp [Platform.admitsRegion]

/-- All MemRead can answer: the bytes of an admitted region, or nothing. -/
theorem State.memRead_cases (s : State) (r : Region) :
    (s.plat.admitsRegion r = true ∧ s.memRead r = some (s.mem.readBytes r.base r.size)) ∨
      (s.plat.admitsRegion r = false ∧ s.memRead r = none) := by
  unfold State.memRead
  cases h : s.plat.admitsRegion r <;> simp

/-- All MemWrite can answer: the bytes written where the region is admitted, else the region drawn. -/
theorem State.memWrite_cases (s : State) (a : Nat) (bs : List Byte) :
    (s.plat.admitsRegion ⟨a, bs.length⟩ = true ∧
        s.memWrite a bs = .ok { s with mem := s.mem.writeBytes a bs }) ∨
      (s.plat.admitsRegion ⟨a, bs.length⟩ = false ∧ s.memWrite a bs = .error (s.drawRegion ⟨a, bs.length⟩)) := by
  unfold State.memWrite
  cases h : s.plat.admitsRegion ⟨a, bs.length⟩ <;> simp

@[simp] theorem drawnBytes_length (k n : Nat) : (drawnBytes k n).length = n := by
  simp [drawnBytes]

/-- A region made unspecified leaves every byte outside it alone. -/
theorem State.drawRegion_read_outside (s : State) (r : Region) (x : Nat) (h : r.holds x = false) :
    (s.drawRegion r).mem.read x = s.mem.read x := by
  refine Memory.read_writeBytes_outside _ _ _ _ ?_
  simp only [drawnBytes_length]
  by_contra hc
  simp only [not_or, not_lt, not_le] at hc
  simp [Region.holds, hc.1, hc.2] at h

end Sys2Proof.Machine
end

