-- ==== Sys2Proof/Laws/State.lean ====
section
/-! SUPPORT. One lemma per field per named update of the state, each true by rfl, so that no later proof unfolds a record
update. -/

namespace Sys2Proof.Machine

section Windows
variable (w : Window) (c : ErrCode) (v : Word32)

@[simp] theorem Window.complete_irqEn : (w.complete c).irqEn = w.irqEn := rfl
@[simp] theorem Window.complete_busy : (w.complete c).busy = false := rfl
@[simp] theorem Window.complete_done : (w.complete c).done = true := rfl
@[simp] theorem Window.complete_err : (w.complete c).err = decide (c ≠ .ok) := rfl
@[simp] theorem Window.complete_ovr : (w.complete c).ovr = w.ovr := rfl
@[simp] theorem Window.complete_errcode : (w.complete c).errcode = c := rfl
@[simp] theorem Window.complete_srcAddr : (w.complete c).srcAddr = w.srcAddr := rfl
@[simp] theorem Window.complete_srcLen : (w.complete c).srcLen = w.srcLen := rfl
@[simp] theorem Window.complete_dstAddr : (w.complete c).dstAddr = w.dstAddr := rfl
@[simp] theorem Window.complete_auxAddr : (w.complete c).auxAddr = w.auxAddr := rfl
@[simp] theorem Window.complete_auxLen : (w.complete c).auxLen = w.auxLen := rfl
@[simp] theorem Window.complete_auxCap : (w.complete c).auxCap = w.auxCap := rfl
@[simp] theorem Window.complete_iter : (w.complete c).iter = w.iter := rfl
@[simp] theorem Window.writeStatus_irqEn : (w.writeStatus v).irqEn = w.irqEn := rfl
@[simp] theorem Window.writeStatus_busy : (w.writeStatus v).busy = w.busy := rfl
@[simp] theorem Window.writeStatus_done : (w.writeStatus v).done = (w.done && !v.getLsbD 1) := rfl
@[simp] theorem Window.writeStatus_err : (w.writeStatus v).err = (w.err && !v.getLsbD 2) := rfl
@[simp] theorem Window.writeStatus_ovr : (w.writeStatus v).ovr = (w.ovr && !v.getLsbD 3) := rfl
@[simp] theorem Window.writeStatus_errcode : (w.writeStatus v).errcode = w.errcode := rfl
@[simp] theorem Window.writeStatus_srcAddr : (w.writeStatus v).srcAddr = w.srcAddr := rfl
@[simp] theorem Window.writeStatus_srcLen : (w.writeStatus v).srcLen = w.srcLen := rfl
@[simp] theorem Window.writeStatus_dstAddr : (w.writeStatus v).dstAddr = w.dstAddr := rfl
@[simp] theorem Window.writeStatus_auxAddr : (w.writeStatus v).auxAddr = w.auxAddr := rfl
@[simp] theorem Window.writeStatus_auxLen : (w.writeStatus v).auxLen = w.auxLen := rfl
@[simp] theorem Window.writeStatus_auxCap : (w.writeStatus v).auxCap = w.auxCap := rfl
@[simp] theorem Window.writeStatus_iter : (w.writeStatus v).iter = w.iter := rfl
@[simp] theorem Window.writeCtrl_irqEn : (w.writeCtrl v).irqEn = v.getLsbD 0 := rfl
@[simp] theorem Window.writeCtrl_busy : (w.writeCtrl v).busy = w.busy := rfl
@[simp] theorem Window.writeCtrl_done : (w.writeCtrl v).done = w.done := rfl
@[simp] theorem Window.writeCtrl_err : (w.writeCtrl v).err = w.err := rfl
@[simp] theorem Window.writeCtrl_ovr : (w.writeCtrl v).ovr = w.ovr := rfl
@[simp] theorem Window.writeCtrl_errcode : (w.writeCtrl v).errcode = w.errcode := rfl
@[simp] theorem Window.writeCtrl_srcAddr : (w.writeCtrl v).srcAddr = w.srcAddr := rfl
@[simp] theorem Window.writeCtrl_srcLen : (w.writeCtrl v).srcLen = w.srcLen := rfl
@[simp] theorem Window.writeCtrl_dstAddr : (w.writeCtrl v).dstAddr = w.dstAddr := rfl
@[simp] theorem Window.writeCtrl_auxAddr : (w.writeCtrl v).auxAddr = w.auxAddr := rfl
@[simp] theorem Window.writeCtrl_auxLen : (w.writeCtrl v).auxLen = w.auxLen := rfl
@[simp] theorem Window.writeCtrl_auxCap : (w.writeCtrl v).auxCap = w.auxCap := rfl
@[simp] theorem Window.writeCtrl_iter : (w.writeCtrl v).iter = w.iter := rfl
@[simp] theorem Window.latched_srcAddr : (w.latched v).srcAddr = w.srcAddr := rfl
@[simp] theorem Window.latched_srcLen : (w.latched v).srcLen = w.srcLen := rfl
@[simp] theorem Window.latched_dstAddr : (w.latched v).dstAddr = w.dstAddr := rfl
@[simp] theorem Window.latched_auxAddr : (w.latched v).auxAddr = w.auxAddr := rfl
@[simp] theorem Window.latched_auxLen : (w.latched v).auxLen = w.auxLen := rfl
@[simp] theorem Window.latched_auxCap : (w.latched v).auxCap = w.auxCap := rfl
@[simp] theorem Window.latched_iter : (w.latched v).iter = w.iter := rfl
@[simp] theorem Window.latched_cmd : (w.latched v).cmd = v := rfl

end Windows

section States
variable (s : State) (c : ErrCode) (v : Word32) (x : HostRead) (r : Region)

@[simp] theorem State.complete_win : (s.complete c).win = s.win.complete c := rfl
@[simp] theorem State.complete_latch : (s.complete c).latch = s.latch := rfl
@[simp] theorem State.complete_dp : (s.complete c).dp = s.dp := rfl
@[simp] theorem State.complete_mem : (s.complete c).mem = s.mem := rfl
@[simp] theorem State.complete_plat : (s.complete c).plat = s.plat := rfl
@[simp] theorem State.complete_host : (s.complete c).host = s.host := rfl
@[simp] theorem State.complete_draws : (s.complete c).draws = s.draws := rfl
@[simp] theorem State.reject_win : (s.reject c).win = s.win.complete c := rfl
@[simp] theorem State.reject_latch : (s.reject c).latch = s.latch := rfl
@[simp] theorem State.reject_dp : (s.reject c).dp = s.dp := rfl
@[simp] theorem State.reject_mem : (s.reject c).mem = s.mem := rfl
@[simp] theorem State.reject_plat : (s.reject c).plat = s.plat := rfl
@[simp] theorem State.reject_host : (s.reject c).host = s.host := rfl
@[simp] theorem State.reject_draws : (s.reject c).draws = s.draws := rfl
@[simp] theorem State.issue_win : (s.issue v).win = { s.win with busy := true, done := false, err := false, errcode := .ok } := rfl
@[simp] theorem State.issue_latch : (s.issue v).latch = s.win.latched v := rfl
@[simp] theorem State.issue_dp : (s.issue v).dp = s.dp := rfl
@[simp] theorem State.issue_mem : (s.issue v).mem = s.mem := rfl
@[simp] theorem State.issue_plat : (s.issue v).plat = s.plat := rfl
@[simp] theorem State.issue_host : (s.issue v).host = s.host := rfl
@[simp] theorem State.issue_draws : (s.issue v).draws = s.draws := rfl
@[simp] theorem State.got_win : (s.got x).win = s.win := rfl
@[simp] theorem State.got_latch : (s.got x).latch = s.latch := rfl
@[simp] theorem State.got_dp : (s.got x).dp = s.dp := rfl
@[simp] theorem State.got_mem : (s.got x).mem = s.mem := rfl
@[simp] theorem State.got_plat : (s.got x).plat = s.plat := rfl
@[simp] theorem State.got_host : (s.got x).host = { s.host with reads := x :: s.host.reads } := rfl
@[simp] theorem State.got_draws : (s.got x).draws = s.draws := rfl
@[simp] theorem State.popOp_win : (s.popOp).win = s.win := rfl
@[simp] theorem State.popOp_latch : (s.popOp).latch = s.latch := rfl
@[simp] theorem State.popOp_dp : (s.popOp).dp = s.dp := rfl
@[simp] theorem State.popOp_mem : (s.popOp).mem = s.mem := rfl
@[simp] theorem State.popOp_plat : (s.popOp).plat = s.plat := rfl
@[simp] theorem State.popOp_host : (s.popOp).host = { s.host with ops := s.host.ops.tail } := rfl
@[simp] theorem State.popOp_draws : (s.popOp).draws = s.draws := rfl
@[simp] theorem State.popTurn_win : (s.popTurn).win = s.win := rfl
@[simp] theorem State.popTurn_latch : (s.popTurn).latch = s.latch := rfl
@[simp] theorem State.popTurn_dp : (s.popTurn).dp = s.dp := rfl
@[simp] theorem State.popTurn_mem : (s.popTurn).mem = s.mem := rfl
@[simp] theorem State.popTurn_plat : (s.popTurn).plat = s.plat := rfl
@[simp] theorem State.popTurn_host : (s.popTurn).host = { s.host with sched := s.host.sched.tail } := rfl
@[simp] theorem State.popTurn_draws : (s.popTurn).draws = s.draws := rfl
@[simp] theorem State.drawRegion_win : (s.drawRegion r).win = s.win := rfl
@[simp] theorem State.drawRegion_latch : (s.drawRegion r).latch = s.latch := rfl
@[simp] theorem State.drawRegion_dp : (s.drawRegion r).dp = s.dp := rfl
@[simp] theorem State.drawRegion_mem : (s.drawRegion r).mem = s.mem.writeBytes r.base (drawnBytes s.draws r.size) := rfl
@[simp] theorem State.drawRegion_plat : (s.drawRegion r).plat = s.plat := rfl
@[simp] theorem State.drawRegion_host : (s.drawRegion r).host = s.host := rfl
@[simp] theorem State.drawRegion_draws : (s.drawRegion r).draws = s.draws + r.size := rfl
@[simp] theorem State.deriveEnd_win : (s.deriveEnd).win = { s.win with auxLen := s.latch.auxLen + 4 } := rfl
@[simp] theorem State.deriveEnd_latch : (s.deriveEnd).latch = s.latch := rfl
@[simp] theorem State.deriveEnd_dp : (s.deriveEnd).dp = s.dp.validate := rfl
@[simp] theorem State.deriveEnd_mem : (s.deriveEnd).mem = s.mem := rfl
@[simp] theorem State.deriveEnd_plat : (s.deriveEnd).plat = s.plat := rfl
@[simp] theorem State.deriveEnd_host : (s.deriveEnd).host = s.host := rfl
@[simp] theorem State.deriveEnd_draws : (s.deriveEnd).draws = s.draws := rfl
@[simp] theorem State.abortHash_win (e : EngineId) : (s.abortHash e).win = s.win.complete .bus := rfl
@[simp] theorem State.abortHash_latch (e : EngineId) : (s.abortHash e).latch = s.latch := rfl
@[simp] theorem State.abortHash_mem (e : EngineId) : (s.abortHash e).mem = s.mem := rfl
@[simp] theorem State.abortHash_plat (e : EngineId) : (s.abortHash e).plat = s.plat := rfl
@[simp] theorem State.abortHash_host (e : EngineId) : (s.abortHash e).host = s.host := rfl
@[simp] theorem State.abortHash_draws (e : EngineId) : (s.abortHash e).draws = s.draws + 1 := rfl
@[simp] theorem State.abortMac_win : (s.abortMac).win = s.win.complete .bus := rfl
@[simp] theorem State.abortMac_latch : (s.abortMac).latch = s.latch := rfl
@[simp] theorem State.abortMac_mem : (s.abortMac).mem = s.mem := rfl
@[simp] theorem State.abortMac_plat : (s.abortMac).plat = s.plat := rfl
@[simp] theorem State.abortMac_host : (s.abortMac).host = s.host := rfl
@[simp] theorem State.abortMac_draws : (s.abortMac).draws = s.draws + 2 := rfl
@[simp] theorem State.abortContext_win : (s.abortContext).win = s.win.complete .bus := rfl
@[simp] theorem State.abortContext_latch : (s.abortContext).latch = s.latch := rfl
@[simp] theorem State.abortContext_mem : (s.abortContext).mem = s.mem := rfl
@[simp] theorem State.abortContext_plat : (s.abortContext).plat = s.plat := rfl
@[simp] theorem State.abortContext_host : (s.abortContext).host = s.host := rfl
@[simp] theorem State.abortContext_draws : (s.abortContext).draws = s.draws + 4 := rfl

end States

section Datapaths
variable (d : Datapath) (e : EngineId) (x : Engine) (l : Lane) (S : Snapshot) (k : Nat)

@[simp] theorem Datapath.setEngine_ctxI : (d.setEngine e x).ctxI = d.ctxI := by cases e <;> rfl
@[simp] theorem Datapath.setEngine_ctxO : (d.setEngine e x).ctxO = d.ctxO := by cases e <;> rfl
@[simp] theorem Datapath.setEngine_ctxValid : (d.setEngine e x).ctxValid = d.ctxValid := by cases e <;> rfl
@[simp] theorem Datapath.setEngine_scratch : (d.setEngine e x).scratch = d.scratch := by cases e <;> rfl
@[simp] theorem Datapath.setEngine_compressions : (d.setEngine e x).compressions = d.compressions := by cases e <;> rfl
@[simp] theorem Datapath.setEngine_e0_e0 : (d.setEngine .e0 x).e0 = x := rfl
@[simp] theorem Datapath.setEngine_e0_e1 : (d.setEngine .e0 x).e1 = d.e1 := rfl
@[simp] theorem Datapath.setEngine_e1_e0 : (d.setEngine .e1 x).e0 = d.e0 := rfl
@[simp] theorem Datapath.setEngine_e1_e1 : (d.setEngine .e1 x).e1 = x := rfl
@[simp] theorem Datapath.engine_e0 : d.engine .e0 = d.e0 := rfl
@[simp] theorem Datapath.engine_e1 : d.engine .e1 = d.e1 := rfl
@[simp] theorem Datapath.engine_setEngine : (d.setEngine e x).engine e = x := by cases e <;> rfl
theorem Datapath.engine_setEngine_ne {e e' : EngineId} (h : e' ≠ e) (d : Datapath) (x : Engine) :
    (d.setEngine e x).engine e' = d.engine e' := by
  cases e <;> cases e' <;> first | rfl | exact absurd rfl h
@[simp] theorem Datapath.setEngine_setEngine (y : Engine) : (d.setEngine e x).setEngine e y = d.setEngine e y := by cases e <;> rfl
@[simp] theorem Datapath.setEngine_engine : d.setEngine e (d.engine e) = d := by cases e <;> rfl
@[simp] theorem Datapath.lane_eng : (d.lane e).eng = d.engine e := rfl
@[simp] theorem Datapath.lane_ws : (d.lane e).ws = d.scratch.ws := rfl
@[simp] theorem Datapath.lane_count : (d.lane e).count = d.compressions := rfl
@[simp] theorem Datapath.putLane_engine : (d.putLane e l).engine e = l.eng := by cases e <;> rfl
theorem Datapath.putLane_engine_ne {e e' : EngineId} (h : e' ≠ e) (d : Datapath) (l : Lane) :
    (d.putLane e l).engine e' = d.engine e' := by
  cases e <;> cases e' <;> first | rfl | exact absurd rfl h
@[simp] theorem Datapath.putLane_ctxI : (d.putLane e l).ctxI = d.ctxI := by cases e <;> rfl
@[simp] theorem Datapath.putLane_ctxO : (d.putLane e l).ctxO = d.ctxO := by cases e <;> rfl
@[simp] theorem Datapath.putLane_ctxValid : (d.putLane e l).ctxValid = d.ctxValid := by cases e <;> rfl
@[simp] theorem Datapath.putLane_scratch : (d.putLane e l).scratch = { d.scratch with ws := l.ws } := rfl
@[simp] theorem Datapath.putLane_compressions : (d.putLane e l).compressions = l.count := rfl
@[simp] theorem Datapath.putLane_lane : (d.putLane e l).lane e = l := by cases e <;> rfl
@[simp] theorem Datapath.onEngine_ctxI (f : Lane → Lane) : (d.onEngine e f).ctxI = d.ctxI := by cases e <;> rfl
@[simp] theorem Datapath.onEngine_ctxO (f : Lane → Lane) : (d.onEngine e f).ctxO = d.ctxO := by cases e <;> rfl
@[simp] theorem Datapath.onEngine_ctxValid (f : Lane → Lane) : (d.onEngine e f).ctxValid = d.ctxValid := by cases e <;> rfl
@[simp] theorem Datapath.onEngine_engine (f : Lane → Lane) : (d.onEngine e f).engine e = (f (d.lane e)).eng := by cases e <;> rfl
@[simp] theorem Datapath.onEngine_lane (f : Lane → Lane) : (d.onEngine e f).lane e = f (d.lane e) := by cases e <;> rfl
@[simp] theorem Datapath.onEngine_compressions (f : Lane → Lane) : (d.onEngine e f).compressions = (f (d.lane e)).count := rfl
theorem Datapath.onEngine_engine_ne {e e' : EngineId} (h : e' ≠ e) (d : Datapath) (f : Lane → Lane) :
    (d.onEngine e f).engine e' = d.engine e' :=
  Datapath.putLane_engine_ne h d _
@[simp] theorem Datapath.dropScratch_e0 : (d.dropScratch k).e0 = d.e0 := rfl
@[simp] theorem Datapath.dropScratch_e1 : (d.dropScratch k).e1 = d.e1 := rfl
@[simp] theorem Datapath.dropScratch_ctxI : (d.dropScratch k).ctxI = d.ctxI := rfl
@[simp] theorem Datapath.dropScratch_ctxO : (d.dropScratch k).ctxO = d.ctxO := rfl
@[simp] theorem Datapath.dropScratch_ctxValid : (d.dropScratch k).ctxValid = d.ctxValid := rfl
@[simp] theorem Datapath.dropScratch_compressions : (d.dropScratch k).compressions = d.compressions := rfl
@[simp] theorem Datapath.dropScratch_engine : (d.dropScratch k).engine e = d.engine e := by cases e <;> rfl
@[simp] theorem Datapath.digest_eq : d.digest e = Machine.digest (d.engine e).h := rfl
@[simp] theorem Engine.cloneFrom_h : (x.cloneFrom S).h = S.h := rfl
@[simp] theorem Engine.cloneFrom_pos : (x.cloneFrom S).pos = S.pos := rfl
@[simp] theorem Engine.cloneFrom_size : (x.cloneFrom S).size = S.size := rfl
@[simp] theorem Engine.cloneFrom_fsm : (x.cloneFrom S).fsm = .absorbing := rfl
@[simp] theorem Engine.cloneFrom_buf : (x.cloneFrom S).buf = x.buf := rfl
@[simp] theorem Engine.snapshot_h : x.snapshot.h = x.h := rfl
@[simp] theorem Engine.snapshot_pos : x.snapshot.pos = x.pos := rfl
@[simp] theorem Engine.snapshot_size : x.snapshot.size = x.size := rfl
@[simp] theorem Datapath.clone_ctxI : (d.clone S e).ctxI = d.ctxI := by cases e <;> rfl
@[simp] theorem Datapath.clone_ctxO : (d.clone S e).ctxO = d.ctxO := by cases e <;> rfl
@[simp] theorem Datapath.clone_ctxValid : (d.clone S e).ctxValid = d.ctxValid := by cases e <;> rfl
@[simp] theorem Datapath.clone_scratch : (d.clone S e).scratch = d.scratch := by cases e <;> rfl
@[simp] theorem Datapath.clone_compressions : (d.clone S e).compressions = d.compressions := by cases e <;> rfl
@[simp] theorem Datapath.clone_engine : (d.clone S e).engine e = (d.engine e).cloneFrom S := by cases e <;> rfl
theorem Datapath.clone_engine_ne {e e' : EngineId} (h : e' ≠ e) (d : Datapath) (S : Snapshot) :
    (d.clone S e).engine e' = d.engine e' :=
  Datapath.engine_setEngine_ne h d _
@[simp] theorem Datapath.snapshot_e0 : d.snapshot.e0 = d.e0 := rfl
@[simp] theorem Datapath.snapshot_e1 : d.snapshot.e1 = d.e1 := rfl
@[simp] theorem Datapath.snapshot_ctxI : d.snapshot.ctxI = d.e0.snapshot := rfl
@[simp] theorem Datapath.snapshot_ctxO : d.snapshot.ctxO = d.e1.snapshot := rfl
@[simp] theorem Datapath.snapshot_ctxValid : d.snapshot.ctxValid = d.ctxValid := rfl
@[simp] theorem Datapath.snapshot_scratch : d.snapshot.scratch = d.scratch := rfl
@[simp] theorem Datapath.snapshot_compressions : d.snapshot.compressions = d.compressions := rfl
@[simp] theorem Datapath.validate_e0 : d.validate.e0 = d.e0 := rfl
@[simp] theorem Datapath.validate_e1 : d.validate.e1 = d.e1 := rfl
@[simp] theorem Datapath.validate_ctxI : d.validate.ctxI = d.ctxI := rfl
@[simp] theorem Datapath.validate_ctxO : d.validate.ctxO = d.ctxO := rfl
@[simp] theorem Datapath.validate_ctxValid : d.validate.ctxValid = true := rfl
@[simp] theorem Datapath.validate_scratch : d.validate.scratch = d.scratch := rfl
@[simp] theorem Datapath.validate_compressions : d.validate.compressions = d.compressions := rfl
@[simp] theorem drawnEngine_fsm : (drawnEngine k).fsm = .finalized := rfl

end Datapaths

section Lanes
variable (l : Lane) (B : List Byte) (p : Nat)

@[simp] theorem Lane.compress_buf : (l.compress B).eng.buf = l.eng.buf := rfl
@[simp] theorem Lane.compress_pos : (l.compress B).eng.pos = l.eng.pos := rfl
@[simp] theorem Lane.compress_size : (l.compress B).eng.size = l.eng.size := rfl
@[simp] theorem Lane.compress_fsm : (l.compress B).eng.fsm = l.eng.fsm := rfl
@[simp] theorem Lane.compress_h : (l.compress B).eng.h = Machine.compress l.eng.h B l.ws := rfl
@[simp] theorem Lane.compress_count : (l.compress B).count = l.count + 1 := rfl
@[simp] theorem Lane.bufWrite_h : (l.bufWrite p B).eng.h = l.eng.h := rfl
@[simp] theorem Lane.bufWrite_pos : (l.bufWrite p B).eng.pos = l.eng.pos := rfl
@[simp] theorem Lane.bufWrite_size : (l.bufWrite p B).eng.size = l.eng.size := rfl
@[simp] theorem Lane.bufWrite_fsm : (l.bufWrite p B).eng.fsm = l.eng.fsm := rfl
@[simp] theorem Lane.bufWrite_buf : (l.bufWrite p B).eng.buf = Machine.bufWrite l.eng.buf p B := rfl
@[simp] theorem Lane.bufWrite_ws : (l.bufWrite p B).ws = l.ws := rfl
@[simp] theorem Lane.bufWrite_count : (l.bufWrite p B).count = l.count := rfl
@[simp] theorem Lane.setPos_h : (l.setPos p).eng.h = l.eng.h := rfl
@[simp] theorem Lane.setPos_buf : (l.setPos p).eng.buf = l.eng.buf := rfl
@[simp] theorem Lane.setPos_size : (l.setPos p).eng.size = l.eng.size := rfl
@[simp] theorem Lane.setPos_fsm : (l.setPos p).eng.fsm = l.eng.fsm := rfl
@[simp] theorem Lane.setPos_pos : (l.setPos p).eng.pos = BitVec.ofNat 7 p := rfl
@[simp] theorem Lane.setPos_ws : (l.setPos p).ws = l.ws := rfl
@[simp] theorem Lane.setPos_count : (l.setPos p).count = l.count := rfl
@[simp] theorem Lane.init_h : l.init.eng.h = iv := rfl
@[simp] theorem Lane.init_buf : l.init.eng.buf = l.eng.buf := rfl
@[simp] theorem Lane.init_pos : l.init.eng.pos = 0 := rfl
@[simp] theorem Lane.init_size : l.init.eng.size = 0 := rfl
@[simp] theorem Lane.init_fsm : l.init.eng.fsm = .ready := rfl
@[simp] theorem Lane.init_ws : l.init.ws = l.ws := rfl
@[simp] theorem Lane.init_count : l.init.count = l.count := rfl

end Lanes

end Sys2Proof.Machine
end

