-- ==== Sys2Proof/Laws/Commands.lean ====
section
/-! SUPPORT. What each command can do, said once: its rejections in the order of the checks, its E_BUS aborts and its
effect, each with the condition under which it is what happens. -/

namespace Sys2Proof.Machine

/-- The region a MemWrite of 64 bytes at DST touches. -/
theorem Latch.dst_eq (l : Latch) (v : Vector Byte 64) : (⟨l.dst.base, v.toList.length⟩ : Region) = l.dst := by
  simp [Latch.dst, digestBytes]

theorem counterBytes_eq : counterBytes = [0x00, 0x00, 0x00, 0x01] := by decide

/-- The region the counter's MemWrite touches. -/
theorem Latch.counter_eq (l : Latch) : (⟨l.counter.base, counterBytes.length⟩ : Region) = l.counter := by
  simp [Latch.counter, counterBytes_eq]

theorem exec_hashInit (e : EngineId) (s : State) :
    exec (.hashInit e) s = .next ({ s with dp := s.dp.onEngine e Lane.init }.complete .ok) := rfl

theorem exec_hashUpdate_cases (e : EngineId) (s : State) :
    ((s.dp.engine e).fsm = .finalized ∧ exec (.hashUpdate e) s = .next (s.complete .finalized)) ∨
    ((s.dp.engine e).fsm ≠ .finalized ∧ sizeMax < (s.dp.engine e).size.toNat + s.latch.srcLen.toNat ∧
      exec (.hashUpdate e) s = .next (s.complete .length)) ∨
    ((s.dp.engine e).fsm ≠ .finalized ∧ (s.dp.engine e).size.toNat + s.latch.srcLen.toNat ≤ sizeMax ∧
      ((s.latch.src.inRange = false ∧ exec (.hashUpdate e) s = .next (s.complete .addr)) ∨
        (s.latch.src.inRange = true ∧
          ((s.plat.admitsRegion s.latch.src = false ∧ exec (.hashUpdate e) s = .next (s.abortHash e)) ∨
            (s.plat.admitsRegion s.latch.src = true ∧
              exec (.hashUpdate e) s = .next
                ({ s with
                  dp := s.dp.onEngine e (Lane.absorb (s.mem.readBytes s.latch.src.base s.latch.src.size))
                  }.complete .ok)))))) := by
  simp only [exec, execHashUpdate]
  by_cases h1 : (s.dp.engine e).fsm = .finalized
  · exact .inl ⟨h1, by rw [if_pos h1]; rfl⟩
  by_cases h2 : sizeMax < (s.dp.engine e).size.toNat + s.latch.srcLen.toNat
  · exact .inr (.inl ⟨h1, h2, by rw [if_neg h1, if_pos h2]; rfl⟩)
  refine .inr (.inr ⟨h1, not_lt.mp h2, ?_⟩)
  rw [if_neg h1, if_neg h2]
  cases h3 : s.latch.src.inRange
  · exact .inl ⟨rfl, rfl⟩
  refine .inr ⟨rfl, ?_⟩
  rcases s.memRead_cases s.latch.src with ⟨h4, h5⟩ | ⟨h4, h5⟩
  · exact .inr ⟨h4, by simp [h5]⟩
  · exact .inl ⟨h4, by simp [h5]⟩

theorem exec_hashFinalize_cases (e : EngineId) (s : State) :
    ((s.dp.engine e).fsm = .finalized ∧ exec (.hashFinalize e) s = .next (s.complete .finalized)) ∨
    ((s.dp.engine e).fsm ≠ .finalized ∧
      ((s.latch.dst.inRange = false ∧ exec (.hashFinalize e) s = .next (s.complete .addr)) ∨
        (s.latch.dst.inRange = true ∧
          let dp := s.dp.onEngine e Lane.finalize
          ((s.plat.admitsRegion s.latch.dst = false ∧
              exec (.hashFinalize e) s = .next (({ s with dp := dp }.drawRegion s.latch.dst).abortHash e)) ∨
            (s.plat.admitsRegion s.latch.dst = true ∧
              exec (.hashFinalize e) s = .next ({ s with
                dp := dp, mem := s.mem.writeBytes s.latch.dst.base (dp.digest e).toList }.complete .ok)))))) := by
  simp only [exec, execHashFinalize]
  by_cases h1 : (s.dp.engine e).fsm = .finalized
  · exact .inl ⟨h1, by rw [if_pos h1]; rfl⟩
  refine .inr ⟨h1, ?_⟩
  rw [if_neg h1]
  cases h3 : s.latch.dst.inRange
  · exact .inl ⟨rfl, rfl⟩
  refine .inr ⟨rfl, ?_⟩
  have := State.memWrite_cases { s with dp := s.dp.onEngine e Lane.finalize } s.latch.dst.base
    ((s.dp.onEngine e Lane.finalize).digest e).toList
  simp only [Latch.dst_eq] at this
  rcases this with ⟨h4, h5⟩ | ⟨h4, h5⟩
  · exact .inr ⟨h4, by simp only [h5]; rfl⟩
  · exact .inl ⟨h4, by simp only [h5]; rfl⟩

/-- The engine's part of HASH_ONESHOT. -/
def Lane.oneshot (M : List Byte) (l : Lane) : Lane := ((l.init).absorb M).finalize

theorem exec_hashOneshot_cases (e : EngineId) (s : State) :
    ((s.latch.src.inRange = false ∨ s.latch.dst.inRange = false) ∧
      exec (.hashOneshot e) s = .next (s.complete .addr)) ∨
    (s.latch.src.inRange = true ∧ s.latch.dst.inRange = true ∧
      ((s.plat.admitsRegion s.latch.src = false ∧ exec (.hashOneshot e) s = .next (s.abortHash e)) ∨
        (s.plat.admitsRegion s.latch.src = true ∧
          let dp := s.dp.onEngine e (Lane.oneshot (s.mem.readBytes s.latch.src.base s.latch.src.size))
          ((s.plat.admitsRegion s.latch.dst = false ∧
              exec (.hashOneshot e) s = .next (({ s with dp := dp }.drawRegion s.latch.dst).abortHash e)) ∨
            (s.plat.admitsRegion s.latch.dst = true ∧
              exec (.hashOneshot e) s = .next ({ s with
                dp := dp, mem := s.mem.writeBytes s.latch.dst.base (dp.digest e).toList }.complete .ok)))))) := by
  simp only [exec, execHashOneshot]
  cases h1 : s.latch.src.inRange
  · exact .inl ⟨.inl rfl, rfl⟩
  cases h2 : s.latch.dst.inRange
  · exact .inl ⟨.inr rfl, rfl⟩
  refine .inr ⟨rfl, rfl, ?_⟩
  rcases s.memRead_cases s.latch.src with ⟨h4, h5⟩ | ⟨h4, h5⟩
  · refine .inr ⟨h4, ?_⟩
    have := State.memWrite_cases
      { s with dp := s.dp.onEngine e (Lane.oneshot (s.mem.readBytes s.latch.src.base s.latch.src.size)) }
      s.latch.dst.base
      ((s.dp.onEngine e (Lane.oneshot (s.mem.readBytes s.latch.src.base s.latch.src.size))).digest e).toList
    simp only [Latch.dst_eq] at this
    rcases this with ⟨h6, h7⟩ | ⟨h6, h7⟩
    · exact .inr ⟨h6, by simp only [h5]; unfold Lane.oneshot at h7 ⊢; simp only [h7]; rfl⟩
    · exact .inl ⟨h6, by simp only [h5]; unfold Lane.oneshot at h7 ⊢; simp only [h7]; rfl⟩
  · exact .inl ⟨h4, by simp [h5]⟩

theorem exec_macInit_cases (s : State) :
    (s.latch.src.inRange = false ∧ exec .macInit s = .next (s.complete .addr)) ∨
    (s.latch.src.inRange = true ∧
      ((s.plat.admitsRegion s.latch.src = false ∧ exec .macInit s = .next s.abortContext) ∨
        (s.plat.admitsRegion s.latch.src = true ∧
          exec .macInit s = .next
            ({ s with
              dp := (s.dp.buildContext (s.mem.readBytes s.latch.src.base s.latch.src.size)).validate
              }.complete .ok)))) := by
  simp only [exec, execMacInit]
  cases h1 : s.latch.src.inRange
  · exact .inl ⟨rfl, rfl⟩
  refine .inr ⟨rfl, ?_⟩
  rcases s.memRead_cases s.latch.src with ⟨h4, h5⟩ | ⟨h4, h5⟩
  · exact .inr ⟨h4, by simp [h5]⟩
  · exact .inl ⟨h4, by simp [h5]⟩

theorem exec_macClone_cases (s : State) :
    (s.dp.ctxValid = false ∧ exec .macClone s = .next (s.complete .noCtx)) ∨
    (s.dp.ctxValid = true ∧
      exec .macClone s = .next ({ s with dp := (s.dp.clone s.dp.ctxI .e0).clone s.dp.ctxO .e1 }.complete .ok)) := by
  simp only [exec, execMacClone]
  cases h1 : s.dp.ctxValid
  · exact .inl ⟨rfl, rfl⟩
  · exact .inr ⟨rfl, rfl⟩

theorem exec_macCompute_cases (s : State) :
    (s.dp.ctxValid = false ∧ exec .macCompute s = .next (s.complete .noCtx)) ∨
    (s.dp.ctxValid = true ∧
      (((s.latch.src.inRange = false ∨ s.latch.dst.inRange = false) ∧
          exec .macCompute s = .next (s.complete .addr)) ∨
        (s.latch.src.inRange = true ∧ s.latch.dst.inRange = true ∧
          ((s.plat.admitsRegion s.latch.src = false ∧ exec .macCompute s = .next s.abortMac) ∨
            (s.plat.admitsRegion s.latch.src = true ∧
              let dp := s.dp.macTag (s.mem.readBytes s.latch.src.base s.latch.src.size)
              ((s.plat.admitsRegion s.latch.dst = false ∧
                  exec .macCompute s = .next ({ s with dp := dp }.drawRegion s.latch.dst).abortMac) ∨
                (s.plat.admitsRegion s.latch.dst = true ∧
                  exec .macCompute s = .next ({ s with
                    dp := dp, mem := s.mem.writeBytes s.latch.dst.base (dp.digest .e1).toList }.complete .ok)))))))) := by
  simp only [exec, execMacCompute]
  cases h0 : s.dp.ctxValid
  · exact .inl ⟨rfl, rfl⟩
  refine .inr ⟨rfl, ?_⟩
  cases h1 : s.latch.src.inRange
  · exact .inl ⟨.inl rfl, rfl⟩
  cases h2 : s.latch.dst.inRange
  · exact .inl ⟨.inr rfl, rfl⟩
  refine .inr ⟨rfl, rfl, ?_⟩
  rcases s.memRead_cases s.latch.src with ⟨h4, h5⟩ | ⟨h4, h5⟩
  · refine .inr ⟨h4, ?_⟩
    have := State.memWrite_cases { s with dp := s.dp.macTag (s.mem.readBytes s.latch.src.base s.latch.src.size) }
      s.latch.dst.base ((s.dp.macTag (s.mem.readBytes s.latch.src.base s.latch.src.size)).digest .e1).toList
    simp only [Latch.dst_eq] at this
    rcases this with ⟨h6, h7⟩ | ⟨h6, h7⟩
    · exact .inr ⟨h6, by simp only [h5, h7]; rfl⟩
    · exact .inl ⟨h6, by simp only [h5, h7]; rfl⟩
  · exact .inl ⟨h4, by simp [h5]⟩

/-- The state of DERIVE_KEY after the counter is written: the context of the password is built. -/
def State.derive1 (s : State) : State :=
  { s with
    dp := s.dp.buildContext (s.mem.readBytes s.latch.src.base s.latch.src.size)
    mem := s.mem.writeBytes s.latch.counter.base counterBytes }

/-- The salt and the counter after it, as DERIVE_KEY reads them back. -/
def State.framedSalt (s : State) : List Byte :=
  s.derive1.mem.readBytes s.latch.salt.base s.latch.salt.size

/-- The state of DERIVE_KEY after the iteration loop. -/
def State.derive2 (s : State) : State :=
  { s.derive1 with dp := s.derive1.dp.stretch s.framedSalt s.latch.iter.toNat }

/-- The state of DERIVE_KEY after the output is written. -/
def State.derive3 (s : State) : State :=
  { s.derive2 with mem := s.derive2.mem.writeBytes s.latch.dst.base s.derive2.dp.scratch.acc.toList }

/-! The fields of these states. Proofs use these equations: unfolding the states in a comparison of two of them sends
Lean into the engines. -/

@[simp] theorem State.derive1_win (s : State) : s.derive1.win = s.win := rfl
@[simp] theorem State.derive1_latch (s : State) : s.derive1.latch = s.latch := rfl
@[simp] theorem State.derive1_plat (s : State) : s.derive1.plat = s.plat := rfl
@[simp] theorem State.derive1_host (s : State) : s.derive1.host = s.host := rfl
@[simp] theorem State.derive1_draws (s : State) : s.derive1.draws = s.draws := rfl
@[simp] theorem State.derive1_dp (s : State) : s.derive1.dp =
    s.dp.buildContext (s.mem.readBytes s.latch.src.base s.latch.src.size) := rfl
@[simp] theorem State.derive1_mem (s : State) : s.derive1.mem =
    s.mem.writeBytes s.latch.counter.base counterBytes := rfl
@[simp] theorem State.derive2_win (s : State) : s.derive2.win = s.win := rfl
@[simp] theorem State.derive2_latch (s : State) : s.derive2.latch = s.latch := rfl
@[simp] theorem State.derive2_plat (s : State) : s.derive2.plat = s.plat := rfl
@[simp] theorem State.derive2_host (s : State) : s.derive2.host = s.host := rfl
@[simp] theorem State.derive2_draws (s : State) : s.derive2.draws = s.draws := rfl
@[simp] theorem State.derive2_dp (s : State) : s.derive2.dp =
    s.derive1.dp.stretch s.framedSalt s.latch.iter.toNat := rfl
@[simp] theorem State.derive2_mem (s : State) : s.derive2.mem =
    s.mem.writeBytes s.latch.counter.base counterBytes := rfl
@[simp] theorem State.derive3_win (s : State) : s.derive3.win = s.win := rfl
@[simp] theorem State.derive3_latch (s : State) : s.derive3.latch = s.latch := rfl
@[simp] theorem State.derive3_plat (s : State) : s.derive3.plat = s.plat := rfl
@[simp] theorem State.derive3_host (s : State) : s.derive3.host = s.host := rfl
@[simp] theorem State.derive3_draws (s : State) : s.derive3.draws = s.draws := rfl
@[simp] theorem State.derive3_dp (s : State) : s.derive3.dp = s.derive2.dp := rfl
@[simp] theorem State.derive3_mem (s : State) : s.derive3.mem =
    s.derive2.mem.writeBytes s.latch.dst.base s.derive2.dp.scratch.acc.toList := rfl

theorem State.framedSalt_eq (s : State) :
    s.framedSalt =
      (s.mem.writeBytes s.latch.counter.base counterBytes).readBytes s.latch.salt.base s.latch.salt.size := rfl

theorem exec_deriveKey_cases (s : State) :
    (s.latch.auxCap.toNat < s.latch.auxLen.toNat + 4 ∧ exec .deriveKey s = .next (s.complete .saltCap)) ∨
    (s.latch.auxLen.toNat + 4 ≤ s.latch.auxCap.toNat ∧
      (((s.latch.src.inRange = false ∨ s.latch.dst.inRange = false ∨ s.latch.salt.inRange = false) ∧
          exec .deriveKey s = .next (s.complete .addr)) ∨
        (s.latch.src.inRange = true ∧ s.latch.dst.inRange = true ∧ s.latch.salt.inRange = true ∧
          ((s.plat.admitsRegion s.latch.src = false ∧ exec .deriveKey s = .next s.abortContext) ∨
            (s.plat.admitsRegion s.latch.src = true ∧
              ((s.plat.admitsRegion s.latch.counter = false ∧
                  exec .deriveKey s = .next ({ s with dp := s.derive1.dp }.drawRegion s.latch.counter).abortContext) ∨
                (s.plat.admitsRegion s.latch.counter = true ∧
                  ((s.plat.admitsRegion s.latch.salt = false ∧
                      exec .deriveKey s = .next s.derive1.abortContext) ∨
                    (s.plat.admitsRegion s.latch.salt = true ∧
                      ((s.plat.admitsRegion s.latch.dst = false ∧
                          exec .deriveKey s = .next (s.derive2.drawRegion s.latch.dst).abortContext) ∨
                        (s.plat.admitsRegion s.latch.dst = true ∧
                          exec .deriveKey s = .next (s.derive3.deriveEnd.complete .ok)))))))))))) := by
  simp only [exec, execDeriveKey, Latch.saltTooLong]
  by_cases h0 : s.latch.auxCap.toNat < s.latch.auxLen.toNat + 4
  · exact .inl ⟨h0, by simp [h0, State.reject]⟩
  refine .inr ⟨not_lt.mp h0, ?_⟩
  simp only [h0, decide_false, Bool.false_eq_true, if_false]
  cases h1 : s.latch.src.inRange
  · exact .inl ⟨.inl rfl, rfl⟩
  cases h2 : s.latch.dst.inRange
  · exact .inl ⟨.inr (.inl rfl), rfl⟩
  cases h3 : s.latch.salt.inRange
  · exact .inl ⟨.inr (.inr rfl), rfl⟩
  refine .inr ⟨rfl, rfl, rfl, ?_⟩
  rcases s.memRead_cases s.latch.src with ⟨h4, h5⟩ | ⟨h4, h5⟩
  case inr => exact .inl ⟨h4, by simp [h5]⟩
  refine .inr ⟨h4, ?_⟩
  have hc := State.memWrite_cases
    { s with dp := s.dp.buildContext (s.mem.readBytes s.latch.src.base s.latch.src.size) }
    s.latch.counter.base counterBytes
  simp only [Latch.counter_eq] at hc
  rcases hc with ⟨h6, h7⟩ | ⟨h6, h7⟩
  case inr => exact .inl ⟨h6, by simp only [h5, h7]; rfl⟩
  refine .inr ⟨h6, ?_⟩
  have hs := s.derive1.memRead_cases s.latch.salt
  rcases hs with ⟨h8, h9⟩ | ⟨h8, h9⟩
  case inr => exact .inl ⟨h8, by simp only [State.derive1] at h9 ⊢; simp only [h5, h7, h9]; rfl⟩
  refine .inr ⟨h8, ?_⟩
  have hd := s.derive2.memWrite_cases s.latch.dst.base s.derive2.dp.scratch.acc.toList
  simp only [Latch.dst_eq] at hd
  rcases hd with ⟨h10, h11⟩ | ⟨h10, h11⟩
  · refine .inr ⟨h10, ?_⟩
    simp only [State.derive3, State.derive2, State.framedSalt, State.derive1] at h9 h11 ⊢
    simp only [h5, h7, h9, h11]
    rfl
  · refine .inl ⟨h10, ?_⟩
    simp only [State.derive2, State.framedSalt, State.derive1] at h9 h11 ⊢
    simp only [h5, h7, h9, h11]
    rfl

/-- Every command answers a next state: an accepted command always completes (spec/10_state.md R27). -/
theorem exec_next (i : Instr) (s : State) : ∃ t, exec i s = .next t := by
  cases i <;> exact ⟨_, rfl⟩

end Sys2Proof.Machine
end

