-- ==== Sys2Proof/Laws/Datapath.lean ====
section
/-! SUPPORT. What the engine operations, the MAC operations and the stretcher's loop leave in the data path, field by
field, so that no proof unfolds them into each other. -/

namespace Sys2Proof.Machine

variable (d : Datapath) (e : EngineId) (S : Snapshot) (l : Lane) (M K B : List Byte) (f : Lane → Lane)

/-! ### One engine -/

@[simp] theorem Lane.compress_eng : (l.compress B).eng = { l.eng with h := Machine.compress l.eng.h B l.ws } := rfl
@[simp] theorem Lane.init_eng : l.init.eng = { l.eng with h := iv, pos := 0, size := 0, fsm := .ready } := rfl

/-- BUF after a write, as a list. -/
theorem bufWrite_toList (buf : Vector Byte 128) (p : Nat) (bs : List Byte) :
    (Machine.bufWrite buf p bs).toList =
      buf.toList.take p ++ bs.take (128 - p) ++ buf.toList.drop (p + bs.length) := by
  simp [Machine.bufWrite, Vector.toList]

/-- A write within BUF extends the bytes before it. -/
theorem bufWrite_take (buf : Vector Byte 128) (p : Nat) (bs : List Byte) (h : p + bs.length ≤ 128) :
    (Machine.bufWrite buf p bs).toList.take (p + bs.length) = buf.toList.take p ++ bs := by
  rw [bufWrite_toList, List.take_of_length_le (l := bs) (by omega)]
  exact List.take_left' (by simp; omega)

theorem beBytes_length (n : Nat) {w : Nat} (v : BitVec w) : (beBytes n v).length = n := by simp [beBytes]

/-- What `compressBlocks` leaves of an engine but H. -/
theorem Lane.compressBlocks_frame (k : Nat) (M : List Byte) (l : Lane) :
    (l.compressBlocks k M).eng = { l.eng with h := (l.compressBlocks k M).eng.h } ∧
      (l.compressBlocks k M).count = l.count + k := by
  induction k generalizing M l with
  | zero => exact ⟨rfl, rfl⟩
  | succ k ih =>
    have := ih (M.drop 128) (l.compress (M.take 128))
    refine ⟨this.1, this.2.trans ?_⟩
    simp only [Lane.compress_count]
    omega

/-! ### The data path around one engine -/

@[simp] theorem Datapath.digest_onEngine : (d.onEngine e f).digest e = Machine.digest (f (d.lane e)).eng.h := by
  simp only [Datapath.digest, Datapath.onEngine, Datapath.putLane_engine]

theorem Datapath.onEngine_compose (g : Lane → Lane) :
    (d.onEngine e f).onEngine e g = d.onEngine e fun l => g (f l) := by
  cases e <;> rfl

@[simp] theorem Datapath.clone_lane : (d.clone S e).lane e = { d.lane e with eng := (d.engine e).cloneFrom S } := by
  cases e <;> rfl


/-! ### The MAC -/

/-- E0 after the inner half of MacTag. -/
@[simp] theorem Datapath.macInner_e0 :
    (d.macInner M).e0 = (({ d.lane .e0 with eng := d.e0.cloneFrom d.ctxI } : Lane).absorb M).finalize.eng := by
  rfl

@[simp] theorem Datapath.macInner_e1 : (d.macInner M).e1 = d.e1 := rfl
@[simp] theorem Datapath.macInner_ctxI : (d.macInner M).ctxI = d.ctxI := rfl
@[simp] theorem Datapath.macInner_ctxO : (d.macInner M).ctxO = d.ctxO := rfl
@[simp] theorem Datapath.macInner_ctxValid : (d.macInner M).ctxValid = d.ctxValid := rfl

/-- IDIG after the inner half is the digest of E0. -/
@[simp] theorem Datapath.macInner_idig : (d.macInner M).scratch.idig = (d.macInner M).digest .e0 := by
  simp only [Datapath.macInner, Datapath.digest, Datapath.engine_e0]

@[simp] theorem Datapath.macTag_e0 : (d.macTag M).e0 = (d.macInner M).e0 := by
  unfold Datapath.macTag Datapath.macOuter
  rfl

/-- E1 after MacTag. -/
@[simp] theorem Datapath.macTag_e1 :
    (d.macTag M).e1 =
      (({ (d.macInner M).lane .e1 with eng := d.e1.cloneFrom d.ctxO } : Lane).absorb
        ((d.macInner M).digest .e0).toList).finalize.eng := by
  rw [← Datapath.macInner_idig]
  rfl

@[simp] theorem Datapath.macTag_ctxI : (d.macTag M).ctxI = d.ctxI := by
  simp [Datapath.macTag, Datapath.macOuter, Datapath.macInner, Datapath.onEngine]
@[simp] theorem Datapath.macTag_ctxO : (d.macTag M).ctxO = d.ctxO := by
  simp [Datapath.macTag, Datapath.macOuter, Datapath.macInner, Datapath.onEngine]
@[simp] theorem Datapath.macTag_ctxValid : (d.macTag M).ctxValid = d.ctxValid := by
  simp [Datapath.macTag, Datapath.macOuter, Datapath.macInner, Datapath.onEngine]
@[simp] theorem Datapath.macTag_u : (d.macTag M).scratch.u = d.scratch.u := by
  simp [Datapath.macTag, Datapath.macOuter, Datapath.macInner, Datapath.onEngine]
@[simp] theorem Datapath.macTag_acc : (d.macTag M).scratch.acc = d.scratch.acc := by
  simp [Datapath.macTag, Datapath.macOuter, Datapath.macInner, Datapath.onEngine]
@[simp] theorem Datapath.macTag_icnt : (d.macTag M).scratch.icnt = d.scratch.icnt := by
  simp [Datapath.macTag, Datapath.macOuter, Datapath.macInner, Datapath.onEngine]

/-! ### The context -/

/-- The snapshots of the context built for a key, in terms of the key block. -/
theorem Datapath.buildContext_snapshots :
    (d.buildContext K).ctxI = (d.buildContext K).e0.snapshot ∧
    (d.buildContext K).ctxO = (d.buildContext K).e1.snapshot ∧
    (d.buildContext K).e0 =
      (((d.keyBlock K).lane .e0).init.absorb (pad 0x36 (d.keyBlock K).scratch.kb)).eng ∧
    (d.buildContext K).e1.snapshot =
      ((({ (d.keyBlock K).lane .e1 with
          ws := (((d.keyBlock K).lane .e0).init.absorb (pad 0x36 (d.keyBlock K).scratch.kb)).ws
          count := (((d.keyBlock K).lane .e0).init.absorb (pad 0x36 (d.keyBlock K).scratch.kb)).count } : Lane).init).absorb
        (pad 0x5c (d.keyBlock K).scratch.kb)).eng.snapshot :=
  ⟨rfl, rfl, rfl, rfl⟩

theorem Datapath.buildContext_ctxValid : (d.buildContext K).ctxValid = d.ctxValid := by
  simp only [Datapath.buildContext, Datapath.snapshot, Datapath.padAbsorb, Datapath.keyBlock]
  split <;> rfl

/-! ### The stretcher -/

@[simp] theorem Datapath.nextU_e0 : (d.nextU M).e0 = (d.macTag M).e0 := rfl
@[simp] theorem Datapath.nextU_e1 : (d.nextU M).e1 = (d.macTag M).e1 := rfl
@[simp] theorem Datapath.nextU_ctxI : (d.nextU M).ctxI = d.ctxI := Datapath.macTag_ctxI d M
@[simp] theorem Datapath.nextU_ctxO : (d.nextU M).ctxO = d.ctxO := Datapath.macTag_ctxO d M
@[simp] theorem Datapath.nextU_ctxValid : (d.nextU M).ctxValid = d.ctxValid := Datapath.macTag_ctxValid d M
@[simp] theorem Datapath.nextU_compressions : (d.nextU M).compressions = (d.macTag M).compressions := rfl

theorem Datapath.stretchStart_fields :
    (d.stretchStart M).scratch.u = (d.macTag M).digest .e1 ∧
    (d.stretchStart M).scratch.acc = (d.macTag M).digest .e1 ∧
    (d.stretchStart M).ctxI = d.ctxI ∧ (d.stretchStart M).ctxO = d.ctxO ∧
    (d.stretchStart M).ctxValid = d.ctxValid ∧
    (d.stretchStart M).e0 = (d.macTag M).e0 ∧ (d.stretchStart M).e1 = (d.macTag M).e1 ∧
    (d.stretchStart M).compressions = (d.macTag M).compressions :=
  ⟨rfl, rfl, rfl, rfl, rfl, rfl, rfl, rfl⟩

theorem Datapath.stretchStep_fields :
    d.stretchStep.scratch.u = (d.macTag d.scratch.u.toList).digest .e1 ∧
    d.stretchStep.scratch.acc = xorBytes d.scratch.acc ((d.macTag d.scratch.u.toList).digest .e1) ∧
    d.stretchStep.ctxI = d.ctxI ∧ d.stretchStep.ctxO = d.ctxO ∧ d.stretchStep.ctxValid = d.ctxValid ∧
    d.stretchStep.e0 = (d.macTag d.scratch.u.toList).e0 ∧ d.stretchStep.e1 = (d.macTag d.scratch.u.toList).e1 ∧
    d.stretchStep.compressions = (d.macTag d.scratch.u.toList).compressions :=
  ⟨rfl, rfl, rfl, rfl, rfl, rfl, rfl, rfl⟩

/-- The loop leaves the context alone. -/
theorem Datapath.stretchLoop_context (n : Nat) (d : Datapath) :
    (d.stretchLoop n).ctxI = d.ctxI ∧ (d.stretchLoop n).ctxO = d.ctxO ∧ (d.stretchLoop n).ctxValid = d.ctxValid := by
  induction n generalizing d with
  | zero => exact ⟨rfl, rfl, rfl⟩
  | succ n ih =>
    obtain ⟨-, -, hI, hO, hV, -⟩ := d.stretchStep_fields
    obtain ⟨h1, h2, h3⟩ := ih d.stretchStep
    exact ⟨h1.trans hI, h2.trans hO, h3.trans hV⟩

theorem Datapath.stretch_context (c : Nat) :
    (d.stretch M c).ctxI = d.ctxI ∧ (d.stretch M c).ctxO = d.ctxO ∧ (d.stretch M c).ctxValid = d.ctxValid := by
  obtain ⟨-, -, hI, hO, hV, -⟩ := d.stretchStart_fields M
  obtain ⟨h1, h2, h3⟩ := (d.stretchStart M).stretchLoop_context (c - 1)
  exact ⟨h1.trans hI, h2.trans hO, h3.trans hV⟩

end Sys2Proof.Machine
end

