-- ==== Sys2Proof/Laws/Host.lean ====
section
/-! SUPPORT. What a host step, a reset event and a step can do, said once. -/

namespace Sys2Proof.Machine

/-- A read of a register leaves everything but the number of the next free value. -/
theorem State.readReg_frame (r : Option Reg) (s : State) : ∃ n, (s.readReg r).2 = { s with draws := n } := by
  rcases r with _ | r
  · exact ⟨_, rfl⟩
  · cases r <;> try exact ⟨_, rfl⟩
    simp only [State.readReg, State.readStatus]
    split <;> exact ⟨_, rfl⟩

/-- A read of STATUS leaves everything but the number of the next free value. -/
theorem State.readStatus_frame (s : State) : ∃ n, s.readStatus.2 = { s with draws := n } :=
  State.readReg_frame (some .status) s

/-- A write of a register changes the window, and, where it is an accepted CMD write, the latch. -/
theorem State.writeReg_frame (r : Option Reg) (v : Word32) (s : State) :
    s.writeReg r v = { s with win := (s.writeReg r v).win, latch := (s.writeReg r v).latch } ∧
      ((s.writeReg r v).latch = s.latch ∨ (r = some .cmd ∧ s.win.busy = false ∧ s.writeReg r v = s.issue v)) := by
  rcases r with _ | r
  · exact ⟨rfl, .inl rfl⟩
  · cases r <;> try exact ⟨rfl, .inl rfl⟩
    by_cases h : s.win.busy = true
    · have e : s.writeReg (some .cmd) v = { s with win := { s.win with ovr := true } } := if_pos h
      rw [e]
      exact ⟨rfl, .inl rfl⟩
    · have e : s.writeReg (some .cmd) v = s.issue v := if_neg h
      rw [e]
      exact ⟨rfl, .inr ⟨rfl, by simpa using h, rfl⟩⟩

/-- Where a window access is accepted, the offset it names. -/
theorem Platform.windowOffset_ok_iff (p : Platform) (addr : Nat) (width : Width) (off : Nat) :
    p.windowOffset addr width = .ok off ↔
      width = .word ∧ p.regBase ≤ addr ∧ addr < p.regBase + 256 ∧ (addr - p.regBase) % 4 = 0 ∧
        off = addr - p.regBase := by
  unfold Platform.windowOffset windowBytes
  constructor
  · intro h
    split_ifs at h with h1 h2
    injection h with h
    simp only [not_or, not_not] at h2
    exact ⟨h2.1, by omega, by omega, h2.2, h.symm⟩
  · rintro ⟨rfl, h1, h2, h3, rfl⟩
    rw [if_neg (by omega), if_neg (by simp [h3])]

/-- All a host step can do: anything but a window write leaves window, latch, data path and platform alone; a window
write is a write of one register. -/
theorem State.hostStep_cases {s t : State} (h : s.hostStep = .next t) :
    (∃ m n hs, t = { s with mem := m, draws := n, host := hs } ∧ hs.sched = s.host.sched) ∨
      ∃ addr width v rest off, s.host.ops = .regWrite addr width v :: rest ∧
        s.plat.windowOffset addr width = .ok off ∧ t = s.popOp.writeReg (Reg.at? off) v := by
  unfold State.hostStep at h
  split at h
  · cases h
    exact .inl ⟨s.mem, s.draws, s.host, rfl, rfl⟩
  · unfold State.hostRegRead at h
    split at h
    · cases h
    · rename_i off _
      obtain ⟨n, e⟩ := State.readReg_frame (Reg.at? off) s.popOp
      generalize s.popOp.readReg (Reg.at? off) = x at h e
      cases h
      rw [e]
      exact .inl ⟨s.mem, n, _, rfl, rfl⟩
  · rename_i addr width v rest hops
    unfold State.hostRegWrite at h
    split at h
    · cases h
    · rename_i off hoff
      cases h
      exact .inr ⟨addr, width, v, rest, off, hops, hoff, rfl⟩
  · unfold State.hostMemRead at h
    split_ifs at h
    · cases h
      exact .inl ⟨s.mem, _, _, rfl, rfl⟩
    · cases h
      exact .inl ⟨s.mem, s.draws, _, rfl, rfl⟩
  · unfold State.hostMemWrite at h
    split_ifs at h
    cases h
    exact .inl ⟨_, s.draws, _, rfl, rfl⟩
  · obtain ⟨n, e⟩ := s.readStatus_frame
    unfold State.hostPoll at h
    generalize s.readStatus = x at h e
    simp only [e] at h
    cases h
    split
    · exact .inl ⟨s.mem, n, _, rfl, rfl⟩
    · exact .inl ⟨s.mem, n, _, rfl, rfl⟩

/-- A host step leaves the data path, the platform and the schedule alone. -/
theorem State.hostStep_frame {s t : State} (h : s.hostStep = .next t) :
    t.dp = s.dp ∧ t.plat = s.plat ∧ t.host.sched = s.host.sched := by
  rcases State.hostStep_cases h with ⟨m, n, hs, rfl, h'⟩ | ⟨_, _, v, _, off, _, _, rfl⟩
  · exact ⟨rfl, rfl, h'⟩
  · rw [(State.writeReg_frame (Reg.at? off) v s.popOp).1]
    exact ⟨rfl, rfl, rfl⟩

/-- Regions made unspecified leave everything but memory and the number of the next free value. -/
theorem State.drawRegions_frame (rs : List Region) (s : State) :
    ∃ m n, State.drawRegions rs s = { s with mem := m, draws := n } := by
  induction rs generalizing s with
  | nil => exact ⟨s.mem, s.draws, rfl⟩
  | cons r rs ih =>
    obtain ⟨m, n, h⟩ := ih (s.drawRegion r)
    exact ⟨m, n, h⟩

/-- Regions made unspecified leave every byte outside them alone. -/
theorem State.drawRegions_read_outside (rs : List Region) (s : State) (x : Nat) (h : anyHolds rs x = false) :
    (State.drawRegions rs s).mem.read x = s.mem.read x := by
  induction rs generalizing s with
  | nil => rfl
  | cons r rs ih =>
    simp only [anyHolds, List.any_cons, Bool.or_eq_false_iff] at h
    exact (ih (s.drawRegion r) h.2).trans (s.drawRegion_read_outside r x h.1)

/-- What the reset event leaves. -/
theorem State.resetEvent_fields (s : State) :
    s.resetEvent.win = Window.reset ∧
      (∃ sc, s.resetEvent.dp = { Datapath.reset with scratch := sc }) ∧
      s.resetEvent.mem = (State.drawRegions s.runningWriteSet s).mem ∧
      s.resetEvent.plat = s.plat ∧ s.resetEvent.host = s.host := by
  obtain ⟨m, n, h⟩ := State.drawRegions_frame s.runningWriteSet s
  refine ⟨rfl, ⟨_, rfl⟩, rfl, ?_, ?_⟩
  · simp only [State.resetEvent, h]
  · simp only [State.resetEvent, h]

/-- All a step can do. -/
theorem step_cases {s t : State} (h : step s = .next t) :
    (s.nextTurn = .host ∧ s.popTurn.hostStep = .next t) ∨
      (s.nextTurn = .engine ∧ s.win.busy = false ∧ t = s.popTurn) ∨
      (s.nextTurn = .engine ∧ s.win.busy = true ∧ ∃ i, decode s.latch.cmd = .command i ∧
        exec i s.popTurn = .next t) ∨
      (s.nextTurn = .engine ∧ s.win.busy = true ∧ ∃ why, decode s.latch.cmd = .illegal why ∧
        t = s.popTurn.complete .badCmd) ∨
      (s.nextTurn = .reset ∧ t = s.popTurn.resetEvent) := by
  unfold step at h
  cases hn : s.nextTurn with
  | host =>
    rw [hn] at h
    exact .inl ⟨rfl, h⟩
  | engine =>
    rw [hn] at h
    replace h : (if s.win.busy = true then
        match decode s.latch.cmd with
        | .command i => exec i s.popTurn
        | .illegal _ => Host.Outcome.next (s.popTurn.complete .badCmd)
      else .next s.popTurn) = .next t := h
    cases hb : s.win.busy with
    | false =>
      rw [hb, if_neg Bool.false_ne_true] at h
      cases h
      exact .inr (.inl ⟨rfl, rfl, rfl⟩)
    | true =>
      rw [hb, if_pos rfl] at h
      cases hd : decode s.latch.cmd with
      | command i =>
        rw [hd] at h
        exact .inr (.inr (.inl ⟨rfl, rfl, i, rfl, h⟩))
      | illegal why =>
        rw [hd] at h
        cases h
        exact .inr (.inr (.inr (.inl ⟨rfl, rfl, why, rfl, rfl⟩)))
  | reset =>
    rw [hn] at h
    cases h
    exact .inr (.inr (.inr (.inr ⟨rfl, rfl⟩)))

end Sys2Proof.Machine
end

