-- ==== Sys2Proof/Laws/Launch.lean ====
section
/-! SUPPORT. What the launch premises of spec/70_reset_and_hazards.md R273 give: reset meets them, and a command whose
regions are admitted ends with no E_BUS. -/

namespace Sys2Proof.Machine

theorem State.reset_resetCompleted : State.reset.resetCompleted := ⟨rfl, rfl, rfl, rfl, rfl, rfl⟩

theorem State.resetEvent_resetCompleted (s : State) : s.resetEvent.resetCompleted := ⟨rfl, rfl, rfl, rfl, rfl, rfl⟩

theorem runSteps_reset (k : Nat) : runSteps k State.reset = .next State.reset := by
  induction k with
  | zero => rfl
  | succ k ih => exact ih

/-- The machine right after reset, with nothing to do, meets the launch premises. -/
theorem State.reset_launch : State.reset.Launch where
  window := fun _ h => nomatch h
  operands := fun k _ _ _ _ _ h _ hops _ _ _ => by
    rw [runSteps_reset] at h
    cases h
    cases hops
  reset := State.reset_resetCompleted

/-- An admitted footprint, region by region. -/
theorem Platform.admitsFootprint_iff (p : Platform) (l : Latch) (i : Instr) :
    p.admitsFootprint l i = true ↔ ∀ r ∈ readSet l i ++ writeSet l i, p.admitsRegion r = true :=
  List.all_eq_true

/-- A command whose footprint is admitted does not end with E_BUS. -/
theorem exec_ne_bus {i : Instr} {s t : State} (hf : s.plat.admitsFootprint s.latch i = true)
    (h : exec i s = .next t) : t.win.errcode ≠ .bus := by
  have hr := (Platform.admitsFootprint_iff _ _ _).mp hf
  have done : ∀ {u : State}, exec i s = .next u → u.win.errcode ≠ .bus → t.win.errcode ≠ .bus := by
    intro u hu hne
    cases h.symm.trans hu
    exact hne
  cases i with
  | hashInit e => exact done (exec_hashInit e s) (by simp)
  | hashUpdate e =>
    simp only [readSet, writeSet, List.append_nil, List.mem_singleton, forall_eq] at hr
    rcases exec_hashUpdate_cases e s with ⟨_, h'⟩ | ⟨_, _, h'⟩ | ⟨_, _, ⟨_, h'⟩ | ⟨_, ⟨hb, _⟩ | ⟨_, h'⟩⟩⟩
    case inr.inr.inr.inl => simp [hr] at hb
    all_goals exact done h' (by simp)
  | hashFinalize e =>
    simp only [readSet, writeSet, List.nil_append, List.mem_singleton, forall_eq] at hr
    rcases exec_hashFinalize_cases e s with ⟨_, h'⟩ | ⟨_, ⟨_, h'⟩ | ⟨_, ⟨hb, _⟩ | ⟨_, h'⟩⟩⟩
    case inr.inr.inl => simp [hr] at hb
    all_goals exact done h' (by simp)
  | hashOneshot e =>
    simp only [readSet, writeSet, List.cons_append, List.nil_append, List.forall_mem_cons] at hr
    rcases exec_hashOneshot_cases e s with ⟨_, h'⟩ | ⟨_, _, ⟨hb, _⟩ | ⟨_, ⟨hb, _⟩ | ⟨_, h'⟩⟩⟩
    case inr.inl => simp [hr] at hb
    case inr.inr.inl => simp [hr] at hb
    all_goals exact done h' (by simp)
  | macInit =>
    simp only [readSet, writeSet, List.append_nil, List.mem_singleton, forall_eq] at hr
    rcases exec_macInit_cases s with ⟨_, h'⟩ | ⟨_, ⟨hb, _⟩ | ⟨_, h'⟩⟩
    case inr.inl => simp [hr] at hb
    all_goals exact done h' (by simp)
  | macClone =>
    rcases exec_macClone_cases s with ⟨_, h'⟩ | ⟨_, h'⟩ <;> exact done h' (by simp)
  | macCompute =>
    simp only [readSet, writeSet, List.cons_append, List.nil_append, List.forall_mem_cons] at hr
    rcases exec_macCompute_cases s with ⟨_, h'⟩ | ⟨_, ⟨_, h'⟩ | ⟨_, _, ⟨hb, _⟩ | ⟨_, ⟨hb, _⟩ | ⟨_, h'⟩⟩⟩⟩
    case inr.inr.inl => simp [hr] at hb
    case inr.inr.inr.inl => simp [hr] at hb
    all_goals exact done h' (by simp)
  | deriveKey =>
    simp only [readSet, writeSet, List.cons_append, List.nil_append, List.forall_mem_cons] at hr
    rcases exec_deriveKey_cases s with ⟨_, h'⟩ | ⟨_, ⟨_, h'⟩ |
      ⟨_, _, _, ⟨hb, _⟩ | ⟨_, ⟨hb, _⟩ | ⟨_, ⟨hb, _⟩ | ⟨_, ⟨hb, _⟩ | ⟨_, h'⟩⟩⟩⟩⟩⟩
    case inr.inr.inl => simp [hr] at hb
    case inr.inr.inr.inl => simp [hr] at hb
    case inr.inr.inr.inr.inl => simp [hr] at hb
    case inr.inr.inr.inr.inr.inl => simp [hr] at hb
    all_goals exact done h' (by simp)

/-- A command started where its launch premise holds does not end with E_BUS. -/
theorem State.launchReady.exec_ne_bus {i : Instr} {s t : State} (h : s.launchReady i)
    (ht : exec i (s.issue (encode i)) = .next t) : t.win.errcode ≠ .bus :=
  Machine.exec_ne_bus (s := s.issue (encode i)) h.2 ht

end Sys2Proof.Machine
end

