-- ==== Sys2Proof/Laws/PerInstr.lean ====
section
/-! SUPPORT. The family Legal: every command is legal syntax, and its word carries its opcode with the reserved bits
clear (spec/30_encoding.md R90, R93). -/

namespace Sys2Proof.Laws.Legal

/-- The fields of a command are legal, and its word holds its opcode in bits 7 to 0 and zeros in bits 31 to 9. -/
def Statement (i : Instr) : Prop :=
  i.wellFormed = true ∧ (encode i).extractLsb' 0 8 = i.fields.opcode ∧ (encode i).extractLsb' 9 23 = 0

theorem hashInit (eng : EngineId) : Statement (.hashInit eng) := by
  unfold Statement
  revert eng
  rintro (_ | _) <;> decide

theorem hashUpdate (eng : EngineId) : Statement (.hashUpdate eng) := by
  unfold Statement
  revert eng
  rintro (_ | _) <;> decide

theorem hashFinalize (eng : EngineId) : Statement (.hashFinalize eng) := by
  unfold Statement
  revert eng
  rintro (_ | _) <;> decide

theorem hashOneshot (eng : EngineId) : Statement (.hashOneshot eng) := by
  unfold Statement
  revert eng
  rintro (_ | _) <;> decide

theorem macInit : Statement .macInit := by
  unfold Statement
  decide

theorem macClone : Statement .macClone := by
  unfold Statement
  decide

theorem macCompute : Statement .macCompute := by
  unfold Statement
  decide

theorem deriveKey : Statement .deriveKey := by
  unfold Statement
  decide

end Sys2Proof.Laws.Legal
end

