-- ==== Sys2Proof/Tests/Slice0.lean ====
section
/-! SUPPORT. The package's own tests. Expected values stand in spec/95_test_vectors.md, in the opcode map of
spec/30_encoding.md or in the rule named. The theorems wit_… meet the hypotheses of the statement they name. -/

namespace Sys2Proof.Tests

open Sys2Proof.Machine

-- One theorem after another: a thread for each would hold its stack while the evaluations before it run.
set_option Elab.async false

/-! ### Ill-formed command fields (spec/30_encoding.md R94): one for each check -/

theorem test_reserved_bit_refused :
    CmdFields.reservedClear ⟨1, 0, 0x01⟩ = false ∧ CmdFields.wellFormed ⟨1, 0, 0x01⟩ = false ∧
      decode (wordOf ⟨1, 0, 0x01⟩) = .illegal .reservedBits := by decide

theorem test_unknown_opcode_refused :
    CmdFields.opcodeKnown ⟨0, 0, 0x05⟩ = false ∧ CmdFields.wellFormed ⟨0, 0, 0x05⟩ = false ∧
      decode (wordOf ⟨0, 0, 0x05⟩) = .illegal .unknownOpcode := by decide

theorem test_engine_bit_refused :
    CmdFields.engineBitAllowed ⟨0, 1, 0x10⟩ = false ∧ CmdFields.wellFormed ⟨0, 1, 0x10⟩ = false ∧
      decode (wordOf ⟨0, 1, 0x10⟩) = .illegal .engineBit := by decide

theorem test_legal_fields_accepted :
    CmdFields.wellFormed ⟨0, 1, 0x04⟩ = true ∧ CmdFields.wellFormed ⟨0, 0, 0x20⟩ = true := by decide

/-! ### Decoding of words written out bit by bit: RSVD (23 bits), ENG (1 bit), OPCODE (8 bits) (R90, R93) -/

theorem test_decode_hashInit :
    decode 0b00000000000000000000000_0_00000001 = .command (.hashInit .e0) ∧
      decode 0b00000000000000000000000_1_00000001 = .command (.hashInit .e1) := by decide

theorem test_decode_hashUpdate :
    decode 0b00000000000000000000000_0_00000010 = .command (.hashUpdate .e0) ∧
      decode 0b00000000000000000000000_1_00000010 = .command (.hashUpdate .e1) := by decide

theorem test_decode_hashFinalize :
    decode 0b00000000000000000000000_0_00000011 = .command (.hashFinalize .e0) ∧
      decode 0b00000000000000000000000_1_00000011 = .command (.hashFinalize .e1) := by decide

theorem test_decode_hashOneshot :
    decode 0b00000000000000000000000_0_00000100 = .command (.hashOneshot .e0) ∧
      decode 0b00000000000000000000000_1_00000100 = .command (.hashOneshot .e1) := by decide

theorem test_decode_macInit :
    decode 0b00000000000000000000000_0_00010000 = .command .macInit ∧
      decode 0b00000000000000000000000_1_00010000 = .illegal .engineBit := by decide

theorem test_decode_macClone :
    decode 0b00000000000000000000000_0_00010001 = .command .macClone ∧
      decode 0b00000000000000000000000_1_00010001 = .illegal .engineBit := by decide

theorem test_decode_macCompute :
    decode 0b00000000000000000000000_0_00010010 = .command .macCompute ∧
      decode 0b10000000000000000000000_0_00010010 = .illegal .reservedBits := by decide

theorem test_decode_deriveKey :
    decode 0b00000000000000000000000_0_00100000 = .command .deriveKey ∧
      decode 0b00000000000000000000000_0_00100001 = .illegal .unknownOpcode := by decide

/-- The illegal words of spec/95_test_vectors.md section 2.8. -/
theorem test_decode_illegal_words :
    decode 0x00000000 = .illegal .unknownOpcode ∧ decode 0x00000005 = .illegal .unknownOpcode ∧
      decode 0x00000110 = .illegal .engineBit ∧ decode 0x00000201 = .illegal .reservedBits ∧
      decode 0xFFFFFFFF = .illegal .reservedBits := by decide

theorem test_table_words :
    decodeTableWord 32 0x00000104 = some (.hashOneshot .e1) ∧ decodeTableWord 32 0x00000020 = some .deriveKey ∧
      decodeTableWord 32 0x00000120 = none ∧ decodeTableWord 40 0x100000001 = none := by decide

/-! ### The word functions and the schedule (spec/95_test_vectors.md sections 2.1 and 2.2) -/

theorem test_rotr :
    rotr 0x0000000000000001 1 = 0x8000000000000000 ∧ rotr 0x0000000000000001 63 = 0x0000000000000002 ∧
      rotr 0x0123456789abcdef 8 = 0xef0123456789abcd := by decide

theorem test_shr :
    shr 0xffffffffffffffff 7 = 0x01ffffffffffffff ∧ shr 0x0123456789abcdef 6 = 0x00048d159e26af37 := by decide

theorem test_choose_majority :
    choose 0xffffffff00000000 0xf0f0f0f0f0f0f0f0 0x0f0f0f0f0f0f0f0f = 0xf0f0f0f00f0f0f0f ∧
      choose 0 0xffffffffffffffff 0x0123456789abcdef = 0x0123456789abcdef ∧
      majority 0xff00ff00ff00ff00 0xf0f0f0f0f0f0f0f0 0xcccccccccccccccc = 0xfcc0fcc0fcc0fcc0 := by decide

theorem test_big_sigmas :
    bsig0 0x0000000000000001 = 0x0000001042000000 ∧ bsig0 0x0123456789abcdef = 0xb7c57a100c7ec1ab ∧
      bsig1 0x0000000000000001 = 0x0004400000800000 ∧ bsig1 0x0123456789abcdef = 0x7703112333475567 := by decide

theorem test_small_sigmas :
    ssig0 0x0123456789abcdef = 0x6f92c77c6c4f1aa1 ∧ ssig0 0xffffffffffffffff = 0x01ffffffffffffff ∧
      ssig1 0x0123456789abcdef = 0x70a3460dbbd4317a ∧ ssig1 0xffffffffffffffff = 0x03ffffffffffffff := by decide

/-- The padded block of "abc". -/
def abcBlock : List Byte :=
  [0x61, 0x62, 0x63, 0x80] ++ List.replicate 108 0 ++ List.replicate 15 0 ++ [0x18]

theorem test_schedule_of_abc :
    let w := expand (ingest abcBlock Scratch.reset.ws.w)
    wordAt w 0 = 0x6162638000000000 ∧ wordAt w 15 = 0x0000000000000018 ∧ wordAt w 16 = 0x6162638000000000 ∧
      wordAt w 17 = 0x00030000000000c0 ∧ wordAt w 18 = 0x0a9699a24c700003 := by decide +kernel

/-- The registers after rounds 0 and 1 of the block of "abc". -/
theorem test_first_rounds_of_abc :
    let start : Workspace := { Scratch.reset.ws with w := ingest abcBlock Scratch.reset.ws.w, regs := loadWorking iv }
    (compressRound start 0).regs =
        ⟨0xf6afceb8bcfcddf5, 0x6a09e667f3bcc908, 0xbb67ae8584caa73b, 0x3c6ef372fe94f82b,
          0x58cb02347ab51f91, 0x510e527fade682d1, 0x9b05688c2b3e6c1f, 0x1f83d9abfb41bd6b⟩ ∧
      (compressRound (compressRound start 0) 1).regs.a = 0x1320f8c9fb872cc0 ∧
      (compressRound (compressRound start 0) 1).regs.e = 0xc3d4ebfd48650ffa := by decide +kernel

theorem test_byte_orders :
    be64 [0x01, 0x02, 0x03, 0x04, 0x05, 0x06, 0x07, 0x08] 0 = 0x0102030405060708 ∧
      beBytes 4 (0x01020304 : Word32) = [0x01, 0x02, 0x03, 0x04] ∧
      beBytes 16 (0x18 : BitVec 128) = List.replicate 15 0 ++ [0x18] := by decide

/-! ### One command on a small state -/

/-- A state in which the command runs with the given latch and memory. -/
def launched (i : Instr) (l : Latch) (m : Memory) : State :=
  { State.reset with latch := { l with cmd := encode i }, mem := m, win := { Window.reset with busy := true } }

/-- A latch with a source region and a destination. -/
def latchOf (src len dst : Word32) : Latch :=
  { Latch.reset with srcAddr := src, srcLen := len, dstAddr := dst }

/-- A memory with some bytes from an address on. -/
def memoryOf (a : Nat) (bs : List Byte) : Memory := Memory.writeBytes [] a bs

/-- Does the outcome give a next state that meets the test? -/
def answers (o : Host.Outcome State Fault Refusal) (p : State → Bool) : Bool :=
  match o with
  | .next t => p t
  | .fault _ => false
  | .refused _ => false

/-- Does the outcome fault so? -/
def faultsWith (o : Host.Outcome State Fault Refusal) (x : Fault) : Bool :=
  match o with
  | .next _ => false
  | .fault y => y == x
  | .refused _ => false

/-- Is the step refused so? -/
def refusedWith (o : Host.Outcome State Fault Refusal) (x : Refusal) : Bool :=
  match o with
  | .next _ => false
  | .fault _ => false
  | .refused y => y == x

/-- Eight big-endian words of memory. -/
def wordsAt (m : Memory) (a : Nat) : List Word64 :=
  (List.range 8).map fun i => be64 (m.readBytes a 64) (8 * i)

/-- "abc" at 0x1000. -/
def abcMemory : Memory := memoryOf 0x1000 [0x61, 0x62, 0x63]

/-- E0 made ready. -/
def withReady (s : State) : State := { s with dp := s.dp.onEngine .e0 Lane.init }

/-- E0 with a SIZE of 2^125 − 11 bytes, of which 117 are buffered. -/
def withNearlyFull (s : State) : State :=
  { s with dp := { s.dp with e0 := { s.dp.e0 with
      fsm := .absorbing, size := BitVec.ofNat 128 (2 ^ 125 - 11), pos := 117 } } }

/-- The context of the key "Jefe" (spec/95_test_vectors.md section 2.6). -/
def jefeI : Snapshot :=
  { h := #v[0xd54c8054e3fafc6e, 0x52d18d7d18db608c, 0xf31b9122d16aa4cb, 0x02a0806a364882be,
            0xbff036bc022388da, 0xb407cb5e93ac39dd, 0x8fe17f83da82db37, 0x41387c0228cdd7b3], pos := 0, size := 128 }

/-- The outer half of `jefeI`'s context. -/
def jefeO : Snapshot :=
  { h := #v[0x83d8dbc75ec49d77, 0xd535857580406c07, 0xbb10239361eb94ed, 0x9f7e08acb483074c,
            0x323fc8bd79797b65, 0xd89aac55f50a9028, 0xc174b5c89503ead3, 0x15e05f915d5ceb81], pos := 0, size := 128 }

/-- The context of "Jefe" in place. -/
def withJefe (s : State) : State :=
  { s with dp := { s.dp with ctxI := jefeI, ctxO := jefeO, ctxValid := true } }

/-- Section 2.5 row 10, on the reset state: E1 READY, E0 still FINALIZED. -/
theorem test_hashInit_e1 :
    answers (step (State.reset.withFetchWord 32 0x00000101)) (fun t => t.status == 0x00000022 && t.dp.e1.h == iv) =
      true := by decide +kernel

/-- Section 2.8: with CTRL.IRQ_EN = 1, STATUS = 0x00000082 and IRQ = 1 after HASH_INIT e0. -/
theorem test_hashInit_interrupts :
    answers (exec (.hashInit .e0) { State.reset with win := { Window.reset with irqEn := true, busy := true } })
      (fun t => t.status == 0x00000082 && t.irq) = true := by decide +kernel

/-- Section 2.5 rows 1 and 7: rejected from reset; POS = 3 and SIZE = 3 after "abc". -/
theorem test_hashUpdate :
    let s := launched (.hashUpdate .e0) (latchOf 0x1000 3 0x2000) abcMemory
    answers (exec (.hashUpdate .e0) s) (fun t => t.status == 0x000200A6) = true ∧
      answers (exec (.hashUpdate .e0) (withReady s))
        (fun t => t.status == 0x00000092 && t.dp.e0.pos == 3 && t.dp.e0.size == 3) = true := by decide +kernel

/-- Section 2.8: SIZE = 2^125 − 11 takes 10 more bytes and not 11. -/
theorem test_hashUpdate_length_limit :
    answers (exec (.hashUpdate .e0) (withNearlyFull (launched (.hashUpdate .e0) (latchOf 0x1000 11 0) [])))
        (fun t => t.status == 0x00030096) = true ∧
      answers (exec (.hashUpdate .e0) (withNearlyFull (launched (.hashUpdate .e0) (latchOf 0x1000 10 0) [])))
        (fun t => t.status == 0x00000092 && t.dp.e0.size == BitVec.ofNat 128 (2 ^ 125 - 1)) = true := by
  decide +kernel

/-- Section 2.5 row 4: HASH_FINALIZE from READY writes the empty-string digest. -/
theorem test_hashFinalize_empty :
    answers (exec (.hashFinalize .e0) (withReady (launched (.hashFinalize .e0) (latchOf 0x1000 3 0x2000) [])))
      (fun t => t.status == 0x000000A2 && wordsAt t.mem 0x2000 ==
        [0xcf83e1357eefb8bd, 0xf1542850d66d8007, 0xd620e4050b5715dc, 0x83f4a921d36ce9ce,
         0x47d0d13c5d85f2b0, 0xff8318d2877eec2f, 0x63b931bd47417a81, 0xa538327af927da3e]) = true := by
  decide +kernel

/-- Section 2.8: a destination that ends at 2^32 + 1 is rejected, and E0 stays READY. -/
theorem test_hashFinalize_out_of_range :
    answers (exec (.hashFinalize .e0) (withReady (launched (.hashFinalize .e0) (latchOf 0 0 0xFFFFFFC1) [])))
      (fun t => t.status == 0x00060086) = true := by decide +kernel

/-- Section 2.5 row 9: E1 computes the digest of "abc", E0 untouched. -/
theorem test_hashOneshot_abc :
    answers (exec (.hashOneshot .e1) (launched (.hashOneshot .e1) (latchOf 0x1000 3 0x2000) abcMemory))
      (fun t => t.status == 0x000000A2 && t.dp.e0 == Engine.reset && wordsAt t.mem 0x2000 ==
        [0xddaf35a193617aba, 0xcc417349ae204131, 0x12e6fa4e89a97ea2, 0x0a9eeee64b55d39a,
         0x2192992a274fc1a8, 0x36ba3c23a3feebbd, 0x454d4423643ce80e, 0x2a9ac94fa54ca49f]) = true := by
  decide +kernel

/-- Section 2.8: a source that ends at 2^32 + 1, and a destination that is not admitted. -/
theorem test_hashOneshot_errors :
    answers (exec (.hashOneshot .e0) (launched (.hashOneshot .e0) (latchOf 0xFFFFFFF0 0x11 0x2000) []))
        (fun t => t.status == 0x000600A6) = true ∧
      answers (exec (.hashOneshot .e0) (launched (.hashOneshot .e0) (latchOf 0 0 0x10000) []))
        (fun t => t.status == 0x000700A6) = true := by decide +kernel

/-- Section 2.6: the inner half of the context of "Jefe", and STATUS = 0x00000152 (program P3). -/
theorem test_macInit_jefe :
    answers (exec .macInit (launched .macInit (latchOf 0x1000 4 0) (memoryOf 0x1000 [0x4a, 0x65, 0x66, 0x65])))
      (fun t => t.status == 0x00000152 && t.dp.ctxI == jefeI) = true := by decide +kernel

/-- Section 2.8: a key that crosses the end of admitted memory. -/
theorem test_macInit_bus_error :
    answers (exec .macInit (launched .macInit (latchOf 0xFFF0 0x20 0) [])) (fun t => t.status == 0x000700A6) =
      true := by decide +kernel

/-- Section 2.8 and program P3: no context, and the context of "Jefe" copied. -/
theorem test_macClone :
    answers (exec .macClone (launched .macClone Latch.reset [])) (fun t => t.status == 0x000400A6) = true ∧
      answers (exec .macClone (withJefe (launched .macClone Latch.reset [])))
        (fun t => t.status == 0x00000152 && t.dp.e0.snapshot == jefeI && t.dp.e1.snapshot == jefeO) = true := by
  decide +kernel

/-- "what do ya want for nothing?" -/
def jefeMessage : List Byte :=
  [0x77, 0x68, 0x61, 0x74, 0x20, 0x64, 0x6f, 0x20, 0x79, 0x61, 0x20, 0x77, 0x61, 0x6e,
   0x74, 0x20, 0x66, 0x6f, 0x72, 0x20, 0x6e, 0x6f, 0x74, 0x68, 0x69, 0x6e, 0x67, 0x3f]

/-- Section 2.6: the tag of the message under "Jefe". -/
theorem test_macCompute_jefe :
    answers (exec .macCompute
        (withJefe (launched .macCompute (latchOf 0x1100 28 0x2000) (memoryOf 0x1100 jefeMessage))))
      (fun t => t.status == 0x000001A2 && wordsAt t.mem 0x2000 ==
        [0x164b7a7bfcf819e2, 0xe395fbe73b56e0a3, 0x87bd64222e831fd6, 0x10270cd7ea250554,
         0x9758bf75c05a994a, 0x6d034f65f8f0e6fd, 0xcaeab1a34d4a6b4b, 0x636e070a38bce737]) = true := by
  decide +kernel

/-- Section 2.8: without a context; and a tag that crosses the end of admitted memory. -/
theorem test_macCompute_errors :
    answers (exec .macCompute (launched .macCompute Latch.reset [])) (fun t => t.status == 0x000400A6) = true ∧
      answers (exec .macCompute (withJefe (launched .macCompute (latchOf 0x1000 4 0xFFF0) [])))
        (fun t => t.status == 0x000701A6) = true := by decide +kernel

/-- DERIVE_KEY's operands of section 2.7: password "password", salt "salt". -/
def deriveLatch (cap iter : Word32) : Latch :=
  { latchOf 0x1000 8 0x2000 with auxAddr := 0x3000, auxLen := 4, auxCap := cap, iter := iter }

/-- "password" at 0x1000 and "salt" at 0x3000. -/
def deriveMemory : Memory :=
  Memory.writeBytes (memoryOf 0x1000 [0x70, 0x61, 0x73, 0x73, 0x77, 0x6f, 0x72, 0x64]) 0x3000 [0x73, 0x61, 0x6c, 0x74]

/-- Section 2.7: the derived key for ITER = 1, the counter in memory and AUX_LEN = 8. -/
theorem test_deriveKey_password :
    answers (exec .deriveKey (launched .deriveKey (deriveLatch 8 1) deriveMemory))
      (fun t => t.status == 0x000001A2 && t.win.auxLen == 8 &&
        t.mem.readBytes 0x3000 8 == [0x73, 0x61, 0x6c, 0x74, 0x00, 0x00, 0x00, 0x01] && wordsAt t.mem 0x2000 ==
        [0x867f70cf1ade02cf, 0xf3752599a3a53dc4, 0xaf34c7a669815ae5, 0xd513554e1c8cf252,
         0xc02d470a285a0501, 0xbad999bfe943c08f, 0x050235d7d68b1da5, 0x5e63f73b60a57fce]) = true := by
  decide +kernel

/-- Section 2.7: AUX_CAP = 7 is too short, AUX_LEN = 0xFFFFFFFC fits no capacity. -/
theorem test_deriveKey_capacity :
    answers (exec .deriveKey (launched .deriveKey (deriveLatch 7 1) deriveMemory))
        (fun t => t.status == 0x000500A6 && t.mem == deriveMemory) = true ∧
      answers (exec .deriveKey (launched .deriveKey
          { deriveLatch 0xFFFFFFFF 1 with auxLen := 0xFFFFFFFC } deriveMemory))
        (fun t => t.win.errcode == .saltCap && t.mem == deriveMemory) = true := by decide +kernel

/-! ### The host's side -/

/-- Program P5: a second CMD write before the exec step is dropped and sets OVR. -/
theorem test_dropped_command :
    let s := (State.reset.issue 0x00000001).writeReg (Reg.at? 0x0C) 0x00000101
    s.win.ovr = true ∧ s.latch.cmd = 0x00000001 ∧ s.status.getLsbD 0 = true := by decide

/-- Section 2.8: W1C writes of 2 and of 4 to STATUS = 0x00010086. -/
theorem test_acknowledge :
    let w : Window := { Window.reset with done := true, err := true, errcode := .badCmd }
    let s := { State.reset with win := w, dp := { State.reset.dp with e0 := { Engine.reset with fsm := .ready } } }
    s.status = 0x00010086 ∧ (s.writeReg (some .status) 0x4).status = 0x00010082 ∧
      (s.writeReg (some .status) 0x2).status = 0x00010084 := by decide

/-- R66, R21: a byte access, a misaligned one and one outside the window are refused; 0x2C reads 0. -/
theorem test_window_accesses :
    refusedWith (State.reset.hostRegRead 0x08 .byte) (.registerAccess 0x08) = true ∧
      refusedWith (State.reset.hostRegRead 0x0A .word) (.registerAccess 0x0A) = true ∧
      refusedWith (State.reset.hostRegRead 0x100 .word) (.outsideWindow 0x100) = true ∧
      answers (State.reset.hostRegRead 0x2C .word) (fun t => t.host.reads == [.reg 0x2C 0]) = true := by decide

/-- R72: a host write of the running command's footprint is MEM_RACE, one byte beside it is not. -/
theorem test_mem_race :
    let s := launched (.hashOneshot .e0) (latchOf 0x1000 3 0x2000) abcMemory
    faultsWith (s.hostMemWrite 0x1002 0) (.memRace 0x1002) = true ∧
      faultsWith (s.hostMemWrite 0x203F 0) (.memRace 0x203F) = true ∧
      answers (s.hostMemWrite 0x1003 7) (fun t => t.mem.read 0x1003 == 7) = true := by decide +kernel

/-- R271: reset during a command leaves BUSY = 0, DONE = 0 and memory outside the write set as it was. -/
theorem test_reset_event :
    let s := { launched (.hashOneshot .e0) (latchOf 0x1000 3 0x2000) abcMemory with
      host := { State.reset.host with sched := [.reset] } }
    answers (step s) (fun t => !t.win.busy && !t.win.done && t.win.auxLen == 0) = true := by decide +kernel

/-! ### Witnesses: concrete states and operands that meet the hypotheses of the statements -/

theorem wit_IllegalWordsCompleteWithBadCmd :
    State.reset.win.busy = false ∧
      ((State.reset.issue 0x00000013).win.busy = true ∧
        decode (State.reset.issue 0x00000013).latch.cmd = .illegal .unknownOpcode) ∧
      decode (State.reset.issue 0x00000201).latch.cmd = .illegal .reservedBits ∧
      decode (State.reset.issue 0x00000110).latch.cmd = .illegal .engineBit := by decide

theorem wit_CompletionReportsTheCode :
    (State.reset.issue 0x00000013).win.busy = true ∧
      decode (State.reset.issue 0x00000013).latch.cmd = .illegal .unknownOpcode := by decide

theorem wit_StatusReadReturnsItsFields :
    State.reset.win.flagsSound ∧ State.reset.win.busy = false ∧
      (State.reset.issue 0x00000001).win.flagsSound ∧ (State.reset.issue 0x00000001).win.busy = true := by
  unfold Window.flagsSound
  decide

theorem wit_StatusWriteClearsOnes :
    (State.reset.issue 0x00000001).win.flagsSound ∧ (State.reset.issue 0x00000001).win.busy = true ∧
      (0x0000000E : Word32).getLsbD 1 = true ∧ (0x00000000 : Word32).getLsbD 1 = false := by
  unfold Window.flagsSound
  decide

theorem wit_CmdWriteIssuesOrSetsOverrun :
    State.reset.win.busy = false ∧ (State.reset.issue 0x00000001).win.busy = true ∧
      decode 0x00000000 = .illegal .unknownOpcode := by decide

theorem wit_OperandRegistersHoldEveryValue :
    Reg.srcAddr ∈ [Reg.srcAddr, .srcLen, .dstAddr, .auxAddr, .auxLen, .auxCap, .iter] ∧
      Reg.iter ∈ [Reg.srcAddr, .srcLen, .dstAddr, .auxAddr, .auxLen, .auxCap, .iter] ∧ Reg.status ≠ Reg.iter := by
  decide

/-- Both ends of the reserved offsets, the offsets beside them, and each kind of refused access. -/
theorem wit_WindowTakesOnlyAlignedWords :
    (0xFF < 256 ∧ 0xFF % 4 ≠ 0) ∧ (0x08 < 256 ∧ Width.half ≠ .word) ∧ (0x2C < 256 ∧ 0x2C % 4 = 0 ∧ 0x2C ≤ 0x2C) ∧
      (0xFC < 256 ∧ 0xFC % 4 = 0 ∧ 0x2C ≤ 0xFC) ∧ (0x28 < 256 ∧ 0x28 % 4 = 0 ∧ ¬0x2C ≤ 0x28) ∧
      (0x00 < 256 ∧ 0x00 % 4 = 0) ∧ (0x0C < 256 ∧ 0x0C % 4 = 0) := by decide

/-- A reset state in which the host writes CMD next. -/
def aboutToIssue : State :=
  { State.reset with host := { State.reset.host with ops := [.regWrite 0x0C .word 0x00000001] } }

theorem wit_LatchIsolatesTheRunningCommand :
    (∃ t, step State.reset = .next t) ∧
      (aboutToIssue.nextTurn = .host ∧ aboutToIssue.win.busy = false ∧
        answers (step aboutToIssue) (fun t => t.latch.cmd == 0x00000001) = true) ∧
      answers (step { State.reset with host := { State.reset.host with sched := [.reset] } }) (fun _ => true) =
        true := by
  refine ⟨⟨_, rfl⟩, ?_, ?_⟩ <;> decide

theorem wit_InterruptFollowsDone :
    (0x00000002 : Word32).getLsbD 1 = true ∧ State.reset.win.busy = false ∧ (0x00000000 : Word32).getLsbD 0 = false ∧
      (State.reset.withFetchWord 32 0x00000001).win.done = false ∧
      answers (step (State.reset.withFetchWord 32 0x00000001)) (fun t => t.win.done) = true := by decide

/-- A state with OVR set while a command runs. -/
def overrun : State := (State.reset.issue 0x00000001).writeCmd 0x00000001

theorem wit_OverrunIsStickyAndHarmless :
    (State.reset.issue 0x00000001).win.busy = true ∧ overrun.win.ovr = true ∧
      answers (step overrun) (fun t => t.win.ovr) = true ∧
      answers (step { overrun with host := ⟨[.reset], [], []⟩ }) (fun t => !t.win.ovr) = true ∧
      answers (step { overrun with host := ⟨[.host], [.regWrite 0x08 .word 0x00000008], []⟩ }) (fun t => !t.win.ovr) =
        true := by decide +kernel

theorem wit_ErrorCodeFollowsTheCheckingOrder :
    (State.reset.issue 0x00000013).win.busy = true ∧
      decode (State.reset.issue 0x00000013).latch.cmd = .illegal .unknownOpcode := by decide

/-- One state for each code a check gives. -/
theorem wit_RejectedCommandChangesOnlyStatus :
    precheck State.reset (.hashUpdate .e0) = .finalized ∧ precheck State.reset .macClone = .noCtx ∧
      precheck (withNearlyFull (launched (.hashUpdate .e0) (latchOf 0 11 0) [])) (.hashUpdate .e0) = .length ∧
      precheck (launched .deriveKey (deriveLatch 7 1) []) .deriveKey = .saltCap ∧
      precheck (launched (.hashOneshot .e0) (latchOf 0xFFFFFFF0 0x11 0) []) (.hashOneshot .e0) = .addr ∧
      (State.reset.issue 0x00000110).win.busy = true ∧
      decode (State.reset.issue 0x00000110).latch.cmd = .illegal .engineBit := by decide +kernel

theorem wit_RejectionIsRepeatable :
    precheck State.reset (.hashFinalize .e1) ≠ .ok ∧ ∃ t, exec (.hashFinalize .e1) State.reset = .next t :=
  ⟨by decide, _, rfl⟩

/-- DERIVE_KEY whose salt is admitted and whose destination is not. -/
def deriveIntoNowhere : State :=
  launched .deriveKey { deriveLatch 8 1 with dstAddr := 0x10000 } deriveMemory

/-- An E_BUS abort of a HASH_* command, of MAC_COMPUTE and of the context builders, at the source, at the counter and at
the destination. -/
theorem wit_BusErrorAbortsTheCommand :
    answers (exec (.hashOneshot .e0) (launched (.hashOneshot .e0) (latchOf 0x10000 1 0) []))
        (fun t => t.win.errcode == .bus) = true ∧
      (latchOf 0x10000 1 0).src ∈ readSet (latchOf 0x10000 1 0) (.hashOneshot .e0) ∧
      State.reset.plat.admitsRegion (latchOf 0x10000 1 0).src = false ∧
      answers (exec .macCompute (withJefe (launched .macCompute (latchOf 0x1000 4 0xFFF0) [])))
        (fun t => t.win.errcode == .bus) = true ∧
      (answers (exec .deriveKey deriveIntoNowhere) (fun t => t.win.errcode == .bus) = true ∧
        deriveIntoNowhere.plat.admitsRegion deriveIntoNowhere.latch.src = true ∧
        deriveIntoNowhere.plat.admitsRegion deriveIntoNowhere.latch.counter = true ∧
        deriveIntoNowhere.latch.counter.holds 0x3007 = true ∧
        deriveIntoNowhere.latch.dst.holds 0x3007 = false) ∧
      (answers (exec .deriveKey (launched .deriveKey
          { deriveLatch 8 1 with auxAddr := 0xFFFE, auxLen := 0, dstAddr := 0x2000 } []))
        (fun t => t.win.errcode == .bus) = true) := by decide +kernel

/-- DERIVE_KEY with the four counter bytes admitted and the salt before them not. -/
def deriveWithoutSalt : State :=
  let s := launched .deriveKey (deriveLatch 8 1) deriveMemory
  { s with plat := { s.plat with memAdmit := [⟨0, 0x3000⟩, ⟨0x3004, 4⟩] } }

/-- An abort at the salt read, with the counter written, and one at the counter write; a byte of DST outside the
counter. -/
theorem wit_BusErrorAbortsTheCommand_derive :
    (answers (exec .deriveKey deriveWithoutSalt) (fun t => t.win.errcode == .bus && t.mem.read 0x3007 == 0x01) = true ∧
        deriveWithoutSalt.plat.admitsRegion deriveWithoutSalt.latch.src = true ∧
        deriveWithoutSalt.plat.admitsRegion deriveWithoutSalt.latch.counter = true ∧
        deriveWithoutSalt.plat.admitsRegion deriveWithoutSalt.latch.salt = false ∧
        deriveWithoutSalt.latch.counter.holds 0x2000 = false ∧ deriveWithoutSalt.latch.dst.holds 0x2000 = true) ∧
      (let s := launched .deriveKey { deriveLatch 8 1 with auxAddr := 0xFFFE, auxLen := 0 } []
       answers (exec .deriveKey s) (fun t => t.win.errcode == .bus) = true ∧
        s.plat.admitsRegion s.latch.counter = false ∧ s.latch.counter.holds 0x2000 = false ∧
        s.latch.dst.holds 0x2000 = true) := by decide +kernel

theorem wit_MemReadReturnsTheBytes :
    (0 < (⟨0xFFFF, 1⟩ : Region).size ∧ State.reset.plat.admits (0xFFFF + 0) = true) ∧
      (1 < (⟨0xFFFF, 2⟩ : Region).size ∧ State.reset.plat.admits (0xFFFF + 1) = false) ∧
      (⟨0x10000, 0⟩ : Region).size = 0 := by decide

/-- Every address of the data memory admitted. -/
def allAdmitted (s : State) : State := { s with plat := { s.plat with memAdmit := [⟨0, 0x100000000⟩] } }

theorem wit_MemWriteStoresTheBytes :
    (0xFFFFFFFF + ([0x01] : List Byte).length ≤ 2 ^ 32 ∧
        (allAdmitted State.reset).plat.admits 0xFFFFFFFF = true) ∧
      (0xFFFF + ([0x01, 0x02] : List Byte).length ≤ 2 ^ 32 ∧ State.reset.plat.admits (0xFFFF + 1) = false) := by
  decide

/-- A region that ends at 2^32 + 1, in a state whose earlier checks pass. -/
theorem wit_OutOfRangeRegionsAreRejected :
    let s := launched (.hashOneshot .e0) (latchOf 0xFFFFFFF0 0x11 0) []
    finalizedMisuse s (.hashOneshot .e0) = false ∧ contextMissing s (.hashOneshot .e0) = false ∧
      lengthExceeded s (.hashOneshot .e0) = false ∧ saltCapacityShort s (.hashOneshot .e0) = false ∧
      (∃ r ∈ operandRegions s.latch (.hashOneshot .e0), 0 < r.size ∧ 2 ^ 32 < r.base + r.size) ∧
      (latchOf 0xFFFFFFFF 0 0).src.size = 0 := by
  decide

/-- A memory that differs outside the read set. -/
theorem wit_CommandTouchesOnlyItsFootprint :
    ∀ a, anyHolds (readSet (latchOf 0x1000 3 0x2000) (.hashOneshot .e0)) a = true →
      (abcMemory.write 0x1003 7).read a = abcMemory.read a := by
  intro a ha
  simp only [anyHolds, readSet, List.any_cons, List.any_nil, Bool.or_false, Region.holds, Latch.src, latchOf,
    Bool.and_eq_true, decide_eq_true_eq] at ha
  have h1 : (0x1000 : Word32).toNat = 0x1000 := rfl
  have h2 : (3 : Word32).toNat = 3 := rfl
  rw [h1, h2] at ha
  have : a = 0x1000 ∨ a = 0x1001 ∨ a = 0x1002 := by omega
  rcases this with rfl | rfl | rfl <;> decide

/-- The bytes where the clauses meet: the ends of the source and of the destination, and the bytes beside them. -/
theorem wit_HostAccessesDuringBusyAreGuarded :
    let s := launched (.hashOneshot .e0) (latchOf 0x1000 3 0x2000) abcMemory
    s.win.busy = true ∧ decode s.latch.cmd = .command (.hashOneshot .e0) ∧ s.plat.admits 0x1002 = true ∧
      (anyHolds (readSet s.latch (.hashOneshot .e0) ++ writeSet s.latch (.hashOneshot .e0)) 0x1002 = true ∧
        anyHolds (writeSet s.latch (.hashOneshot .e0)) 0x1002 = false) ∧
      anyHolds (readSet s.latch (.hashOneshot .e0) ++ writeSet s.latch (.hashOneshot .e0)) 0x1003 = false ∧
      anyHolds (writeSet s.latch (.hashOneshot .e0)) 0x203F = true ∧
      anyHolds (writeSet s.latch (.hashOneshot .e0)) 0x2040 = false := by decide +kernel

/-- The last admitted byte, while BUSY = 0 and while an illegal word is latched. -/
theorem wit_HostAccessesDuringBusyAreGuarded_plain :
    State.reset.plat.admits 0xFFFF = true ∧ State.reset.win.busy = false ∧
      (State.reset.issue 0x00000013).win.busy = true ∧
      decode (State.reset.issue 0x00000013).latch.cmd = .illegal .unknownOpcode := by decide

theorem wit_RotateAndShiftMoveBits : (0 < 1 ∧ 1 < 64) ∧ (0 < 63 ∧ 63 < 64) := by decide

theorem wit_ChoiceAndMajoritySelectBits : 0 < 64 ∧ 63 < 64 := by decide

theorem wit_SigmaFunctionsMixBits : 0 < 64 ∧ 63 < 64 := by decide

theorem wit_ScheduleFollowsTheRecurrence :
    15 < 16 ∧ (16 ≤ 16 ∧ 16 < 80) ∧ (16 ≤ 79 ∧ 79 < 80) ∧ (1 ≤ 1 ∧ 14 ≤ 14) := by decide

/-- The rounds' bounds, and the block the rules' examples are about, padded as HASH_ONESHOT pads "abc". -/
theorem wit_CompressRunsEightyRounds :
    (0 < 80 ∧ 79 < 80) ∧
      ([0x61, 0x62, 0x63] ++ padding 3 : List Byte) =
        [0x61, 0x62, 0x63, 0x80] ++ List.replicate 123 0 ++ [0x18] := by decide

/-- POS = 111 pads to one block and POS = 112 to two; SIZE at its greatest. -/
theorem wit_FinalizePadsTheStream :
    (BitVec.ofNat 128 (2 ^ 125 - 1)).toNat ≤ 2 ^ 125 - 1 ∧ (111 : BitVec 7).toNat ≤ 111 ∧
      ¬(112 : BitVec 7).toNat ≤ 111 := by decide

theorem wit_DigestEmitsBigEndianWords : 0 < 8 ∧ 7 < 8 := by decide

theorem wit_EngineStatesMoveAsTabled :
    (({ State.reset with host := ⟨[.reset], [], []⟩ } : State).nextTurn = .reset ∧
        ∃ t, step { State.reset with host := ⟨[.reset], [], []⟩ } = .next t) ∧
      (State.reset.nextTurn = .host ∧ ∃ t, step State.reset = .next t) ∧
      ∃ t, exec (.hashInit .e0) State.reset = .next t :=
  ⟨⟨rfl, _, rfl⟩, ⟨rfl, _, rfl⟩, _, rfl⟩

theorem wit_AnyChunkingHashesTheMessage :
    ([[0x61, 0x62], [], [0x63]] : List (List Byte)).flatten.length ≤ 2 ^ 125 - 1 ∧
      ([] : List (List Byte)).flatten.length ≤ 2 ^ 125 - 1 := by decide

/-- "abc" absorbed on a READY engine, and an empty region at the top of the address space. -/
theorem wit_HashUpdateCompletes :
    let s := withReady (launched (.hashUpdate .e0) (latchOf 0x1000 3 0) abcMemory)
    ((s.dp.engine .e0).fsm ≠ .finalized ∧
        (s.dp.engine .e0).size.toNat + s.latch.srcLen.toNat ≤ 2 ^ 125 - 1 ∧ s.usable s.latch.src) ∧
      let e := withNearlyFull (launched (.hashUpdate .e0) (latchOf 0xFFFFFFFF 0 0) [])
      (e.dp.engine .e0).fsm ≠ .finalized ∧
        (e.dp.engine .e0).size.toNat + e.latch.srcLen.toNat ≤ 2 ^ 125 - 1 ∧ e.usable e.latch.src ∧
        e.latch.srcLen = 0 := by
  unfold State.usable
  decide +kernel

/-- A destination that ends at 2^32. -/
theorem wit_HashFinalizeCompletes :
    let s := allAdmitted (withReady (launched (.hashFinalize .e0) (latchOf 0 0 0xFFFFFFC0) []))
    (s.dp.engine .e0).fsm ≠ .finalized ∧ s.usable s.latch.dst := by
  unfold State.usable
  decide +kernel

/-- A source and a destination that overlap. -/
theorem wit_OneshotWritesTheSha512Digest :
    let s := launched (.hashOneshot .e1) (latchOf 0x1000 3 0x1000) abcMemory
    s.usable s.latch.src ∧ s.usable s.latch.dst := by
  unfold State.usable
  decide +kernel

theorem wit_MacInitBuildsTheContext :
    (launched .macInit (latchOf 0xFFFF 1 0) []).usable (latchOf 0xFFFF 1 0).src ∧
      (launched .macInit (latchOf 0x10000 0 0) []).usable (latchOf 0x10000 0 0).src := by
  unfold State.usable
  decide +kernel

theorem wit_MacCloneCopiesTheSnapshots : (withJefe State.reset).dp.ctxValid = true := by decide

theorem wit_MacComputeWritesTheTag :
    let s := withJefe (launched .macCompute (latchOf 0x1100 28 0x1100) (memoryOf 0x1100 jefeMessage))
    s.dp.ctxValid = true ∧ s.usable s.latch.src ∧ s.usable s.latch.dst := by
  unfold State.usable
  decide +kernel

/-- The key and the message may be empty; the context is the one just built. -/
theorem wit_MacTagIsHmac (d : Datapath) :
    ([] : List Byte).length < 2 ^ 32 ∧ jefeMessage.length < 2 ^ 32 ∧
      (d.buildContext []).ctxI = (d.buildContext []).ctxI ∧ (d.buildContext []).ctxO = (d.buildContext []).ctxO :=
  ⟨by decide, by decide, rfl, rfl⟩

/-- AUX_CAP at its least, and a destination over the counter's last byte. -/
theorem wit_DeriveKeyWritesTheDerivedKey :
    let s := launched .deriveKey { deriveLatch 8 2 with dstAddr := 0x3007 } deriveMemory
    s.latch.auxLen.toNat + 4 ≤ s.latch.auxCap.toNat ∧ s.usable s.latch.src ∧ s.usable s.latch.salt ∧
      s.usable s.latch.dst ∧ (s.latch.counter.holds 0x3004 = true ∧ s.latch.dst.holds 0x3004 = false) ∧
      (s.latch.counter.holds 0x3003 = false ∧ s.latch.dst.holds 0x3003 = false) := by
  unfold State.usable
  decide +kernel

theorem wit_DeriveKeyLeavesThePasswordContext :
    answers (exec .deriveKey (launched .deriveKey (deriveLatch 8 1) deriveMemory)) (fun t => t.win.errcode == .ok) =
      true := by decide +kernel

theorem wit_SaltCapacityCheckIsExact :
    let s := launched .deriveKey (deriveLatch 7 1) deriveMemory
    let t := launched .deriveKey (deriveLatch 8 1) deriveMemory
    let u := launched .deriveKey { deriveLatch 0xFFFFFFFF 1 with auxLen := 0xFFFFFFFC } []
    s.latch.auxCap.toNat < s.latch.auxLen.toNat + 4 ∧ t.latch.auxLen.toNat + 4 ≤ t.latch.auxCap.toNat ∧
      2 ^ 32 - 4 ≤ u.latch.auxLen.toNat ∧ t.latch.auxLen.toNat + 4 ≤ (0xFFFFFFFF : Word32).toNat ∧
      answers (exec .deriveKey t) (fun x => x.win.errcode == .ok) = true := by decide +kernel

theorem wit_ContextChangesOnlyByItsBuilders :
    (∃ t, exec .macInit State.reset = .next t) ∧ (State.reset.nextTurn = .host ∧ ∃ t, step State.reset = .next t) ∧
      State.reset.dp.ctxValid = false ∧ buildsContext .macInit = true ∧ buildsContext .macCompute = false :=
  ⟨⟨_, rfl⟩, ⟨rfl, _, rfl⟩, rfl, rfl, rfl⟩

/-- The engine's turn with nothing to run, and with an illegal word. -/
theorem wit_ContextChangesOnlyByItsBuilders_engine :
    (let s : State := { State.reset with host := ⟨[.engine], [], []⟩ }
     s.nextTurn = .engine ∧ s.win.busy = false ∧ ∃ t, step s = .next t) ∧
    (let s := State.reset.issue 0x00000013
     s.nextTurn = .engine ∧ decode s.latch.cmd = .illegal .unknownOpcode ∧ ∃ t, step s = .next t) :=
  ⟨⟨rfl, rfl, _, rfl⟩, ⟨rfl, by decide, _, rfl⟩⟩

theorem wit_HashCommandsKeepToTheirEngine :
    usesEngine (.hashOneshot .e0) .e1 = false ∧ usesEngine (.hashInit .e1) .e0 = false := by decide

theorem wit_CommandWorkIsExact :
    (withJefe State.reset).dp.contextSound ∧ State.reset.dp.contextSound ∧
      answers (exec (.hashInit .e0) State.reset) (fun t => t.win.errcode == .ok) = true ∧
      precheck State.reset .macCompute ≠ .ok := by
  unfold Datapath.contextSound
  decide +kernel

theorem wit_ResetLeavesTheGivenValues :
    State.reset = State.reset ∧ State.reset.resetEvent = State.reset.resetEvent ∧ State.reset.win.busy = false :=
  ⟨rfl, rfl, rfl⟩

theorem wit_ResetAbandonsTheRunningCommand :
    let s := { launched .deriveKey (deriveLatch 8 1) deriveMemory with host := ⟨[.reset], [], []⟩ }
    let u := { State.reset.issue 0x00000013 with host := ⟨[.reset], [], []⟩ }
    (s.win.busy = true ∧ s.nextTurn = .reset ∧ decode s.latch.cmd = .command .deriveKey ∧
        anyHolds (writeSet s.latch .deriveKey) 0x3003 = false ∧
        anyHolds (writeSet s.latch .deriveKey) 0x3008 = false) ∧
      u.win.busy = true ∧ u.nextTurn = .reset ∧ decode u.latch.cmd = .illegal .unknownOpcode := by decide +kernel

theorem wit_CommandsFromReset :
    let s := launched .deriveKey (deriveLatch 8 1) deriveMemory
    s.dp.engine .e0 = Engine.reset ∧ s.dp.engine .e1 = Engine.reset ∧ s.dp.ctxValid = false ∧
    s.usable s.latch.src ∧ s.usable s.latch.dst ∧ s.usable s.latch.salt ∧
      s.latch.auxLen.toNat + 4 ≤ s.latch.auxCap.toNat := by
  unfold State.usable
  decide +kernel

theorem wit_StepRunsTheLatchedCommand :
    (State.reset.issue 0x00000101).nextTurn = .engine ∧ (State.reset.issue 0x00000101).win.busy = true ∧
      decode (State.reset.issue 0x00000101).latch.cmd = .command (.hashInit .e1) ∧
      (({ State.reset with host := ⟨[.engine], [], []⟩ } : State).nextTurn = .engine ∧
        State.reset.win.busy = false) := by decide

/-- A BUSY state with an illegal word at the engine's turn, the host's turn with each operation and with none, and a
reset turn. -/
theorem wit_StepRunsTheLatchedCommand_turns :
    ((State.reset.issue 0x00000013).nextTurn = .engine ∧
        decode (State.reset.issue 0x00000013).latch.cmd = .illegal .unknownOpcode) ∧
      (∀ op ∈ [HostOp.regRead 0x08 .word, .regWrite 0x0C .word 1, .memRead 0, .memWrite 0 1, .wait],
        let s : State := { State.reset with host := ⟨[.host], [op, .wait], []⟩ }
        s.nextTurn = .host ∧ s.host.ops = [op, .wait]) ∧
      (let s : State := { State.reset.issue 0x00000001 with host := ⟨[.host], [.wait], []⟩ }
       s.nextTurn = .host ∧ s.win.busy = true) ∧
      (State.reset.nextTurn = .host ∧ State.reset.host.ops = [] ∧ State.reset.host.sched = []) ∧
      ({ State.reset with host := ⟨[.reset], [], []⟩ } : State).nextTurn = .reset := by decide

/-- A wait is over after one poll while no command is BUSY, and the next operation follows (spec/30_encoding.md R99). -/
theorem test_wait :
    let s : State := { State.reset with host := ⟨[.host], [.wait, .memRead 0], []⟩ }
    answers (step s) (fun t => t.host.ops == [.memRead 0] && t.host.reads == [.reg 0x08 0x000000A0]) = true := by
  decide

/-- The host writes ITER, 0x28, and SRC_ADDR, 0x10 (spec/10_state.md R21). -/
theorem test_register_map :
    answers (State.reset.hostRegWrite 0x28 .word 5) (fun t => t.win.iter == 5 && t.win.srcAddr == 0) = true ∧
      answers (State.reset.hostRegWrite 0x10 .word 7) (fun t => t.win.srcAddr == 7 && t.win.iter == 0) = true := by
  decide

theorem wit_BusyCommandCompletesAfterHostTurns :
    let s := { State.reset.issue 0x00000001 with host := ⟨List.replicate 2 .host, [], []⟩ }
    s.win.busy = true ∧ s.host.sched = List.replicate 2 .host ∧
      answers (runSteps 2 s) (fun t => t.win.busy) = true := by decide

/-! ### Launch premises and the end of a run -/

/-- A command is ready by the operand registers it will latch, whatever the stale latch holds. -/
theorem test_launchReady_operands :
    let ready : State := { State.reset with win := { Window.reset with srcAddr := 0x1000, srcLen := 8 },
                                            latch := { Latch.reset with srcAddr := 0x10000, srcLen := 1 } }
    let unready : State := { State.reset with win := { Window.reset with srcAddr := 0x10000, srcLen := 1 } }
    ready.launchReady .macInit ∧ ¬unready.launchReady .macInit := by
  unfold State.launchReady
  decide +kernel

/-- A run is over with a reset turn left on the schedule, and not while a command is BUSY. -/
theorem test_runEnded :
    ({ State.reset with host := ⟨[.reset], [], []⟩ } : State).runEnded ∧
      ¬(State.reset.issue 0x00000001).runEnded := by
  unfold State.runEnded
  decide

/-- A state with an engine that is not FINALIZED and a valid context. -/
def working : State := withReady (withJefe State.reset)

theorem wit_StepKeepsTheInvariant : working.Inv ∧ ∃ t, step working = .next t := by
  refine ⟨⟨by decide, ?_, ?_, ?_, ?_⟩, ⟨_, rfl⟩⟩
  · unfold Engine.sound
    decide
  · unfold Engine.sound
    decide
  · unfold Datapath.contextSound
    decide
  · unfold Window.flagsSound
    decide

/-- An engine that is FINALIZED may hold anything, BUF beyond POS too, and the latch while BUSY = 0. -/
theorem wit_HiddenStateIsUnobservable :
    working.Inv ∧ working.alike { working with
      latch := { working.latch with cmd := 0x00000020 }
      dp := { working.dp with
        e0 := { working.dp.e0 with buf := Vector.replicate 128 0xAA }
        e1 := { Engine.reset with pos := 5, size := 5 } } } := by
  refine ⟨wit_StepKeepsTheInvariant.1, rfl, rfl, rfl, rfl, rfl, fun h => Bool.noConfusion h, ⟨rfl, fun _ => ?_⟩,
    ⟨rfl, fun h => absurd rfl h⟩, rfl, fun _ => ⟨rfl, rfl⟩⟩
  exact ⟨rfl, rfl, rfl, rfl⟩

end Sys2Proof.Tests
end

/-! PROOFS. The family of spec/10_state.md: the window's registers, how every command ends, the state after reset, and
the statements settled from these. -/

namespace Sys2Proof.Machine

/-! ### The window's registers -/

/-- The register map names every register at its own offset (spec/10_state.md R21). -/
theorem Reg.at?_offset (r : Reg) : Reg.at? r.offset = some r := by
  cases r <;> rfl

/-- CTRL reads IRQ_EN alone (spec/10_state.md R24). -/
theorem Window.ctrl_eq (w : Window) : w.ctrl = if w.irqEn then 1 else 0 := by
  unfold Window.ctrl
  cases w.irqEn <;> rfl

/-- Bit 8 of the STATUS word is CTX_VALID (spec/10_state.md R25). -/
theorem statusWord_getLsbD_ctxValid (w : Window) (fsm0 fsm1 : BitVec 2) (valid : Bool) :
    (statusWord w fsm0 fsm1 valid).getLsbD 8 = valid := by
  unfold statusWord
  -- the six fields below it, 8 bits in all, and its own
  iterate 7 rw [BitVec.getLsbD_append]
  simp

/-- A flag of STATUS stays unless the host writes 1 to it (spec/10_state.md R26). -/
theorem Window.writeStatus_eq (v : Word32) (w : Window) :
    w.writeStatus v = { w with
      done := if v.getLsbD 1 then false else w.done
      err := if v.getLsbD 2 then false else w.err
      ovr := if v.getLsbD 3 then false else w.ovr } := by
  have clears (flag one : Bool) : (flag && !one) = if one then false else flag := by
    cases one <;> simp
  simp only [Window.writeStatus, clears]

/-! ### The running command -/

/-- An idle core writes no memory (spec/20_memory.md R69). -/
theorem State.runningWriteSet_idle {s : State} (h : s.win.busy = false) : s.runningWriteSet = [] := by
  simp [State.runningWriteSet, h]

/-- With no command BUSY, a reset leaves data memory (spec/70_reset_and_hazards.md R271). -/
theorem State.resetEvent_mem_idle {s : State} (h : s.win.busy = false) : s.resetEvent.mem = s.mem := by
  obtain ⟨-, -, hmem, -⟩ := s.resetEvent_fields
  rw [hmem, State.runningWriteSet_idle h, State.drawRegions]

/-! ### How a command ends -/

/-- Two states hold the same MAC context. -/
structure State.SameContext (s u : State) : Prop where
  ctxValid : u.dp.ctxValid = s.dp.ctxValid
  ctxI     : u.dp.ctxI = s.dp.ctxI
  ctxO     : u.dp.ctxO = s.dp.ctxO

/-- How a command `i` run from `s` ends: always in a completion, and with this effect on the MAC context
(spec/10_state.md R39, spec/60_exceptions.md R246, R247, R250). -/
inductive CommandEnd (i : Instr) (s : State) : State → Prop
  /-- a check rejects it, whatever the command -/
  | rejected (c : ErrCode) (hok : c ≠ .ok := by decide) (hbus : c ≠ .bus := by decide) :
    CommandEnd i s (s.complete c)
  /-- any other command succeeds or aborts -/
  | keeps (u : State) (c : ErrCode) (hi : buildsContext i = false) (hctx : s.SameContext u) :
    CommandEnd i s (u.complete c)
  /-- a builder succeeds -/
  | builds (u : State) (hi : buildsContext i = true) (hvalid : u.dp.ctxValid = true) : CommandEnd i s (u.complete .ok)
  /-- a builder aborts -/
  | loses (u : State) (hi : buildsContext i = true) (hvalid : u.dp.ctxValid = false) : CommandEnd i s (u.complete .bus)

section CommandEnds
variable {i : Instr} {s t u : State}

theorem CommandEnd.of_abortHash (e : EngineId) (hi : buildsContext i = false) (h : s.SameContext u) :
    CommandEnd i s (u.abortHash e) :=
  .keeps _ .bus hi ⟨by simp [h.ctxValid], by simp [h.ctxI], by simp [h.ctxO]⟩

theorem CommandEnd.of_abortMac (hi : buildsContext i = false) (h : s.SameContext u) : CommandEnd i s u.abortMac :=
  .keeps _ .bus hi ⟨h.ctxValid, h.ctxI, h.ctxO⟩

theorem CommandEnd.of_abortContext (hi : buildsContext i = true) : CommandEnd i s u.abortContext :=
  .loses _ hi rfl

/-- Every command ends so. -/
theorem exec_commandEnd (h : exec i s = .next t) : CommandEnd i s t := by
  have done : ∀ {u : State}, exec i s = .next u → CommandEnd i s u → CommandEnd i s t := by
    intro u hu hend
    cases h.symm.trans hu
    exact hend
  cases i with
  | hashInit e => exact done (exec_hashInit e s) (.keeps _ _ rfl ⟨by simp, by simp, by simp⟩)
  | hashUpdate e =>
    rcases exec_hashUpdate_cases e s with ⟨_, h'⟩ | ⟨_, _, h'⟩ | ⟨_, _, ⟨_, h'⟩ | ⟨_, ⟨_, h'⟩ | ⟨_, h'⟩⟩⟩
    · exact done h' (.rejected _)
    · exact done h' (.rejected _)
    · exact done h' (.rejected _)
    · exact done h' (.of_abortHash e rfl ⟨rfl, rfl, rfl⟩)
    · exact done h' (.keeps _ _ rfl ⟨by simp, by simp, by simp⟩)
  | hashFinalize e =>
    rcases exec_hashFinalize_cases e s with ⟨_, h'⟩ | ⟨_, ⟨_, h'⟩ | ⟨_, ⟨_, h'⟩ | ⟨_, h'⟩⟩⟩
    · exact done h' (.rejected _)
    · exact done h' (.rejected _)
    · exact done h' (.of_abortHash e rfl ⟨by simp, by simp, by simp⟩)
    · exact done h' (.keeps _ _ rfl ⟨by simp, by simp, by simp⟩)
  | hashOneshot e =>
    rcases exec_hashOneshot_cases e s with ⟨_, h'⟩ | ⟨_, _, ⟨_, h'⟩ | ⟨_, ⟨_, h'⟩ | ⟨_, h'⟩⟩⟩
    · exact done h' (.rejected _)
    · exact done h' (.of_abortHash e rfl ⟨rfl, rfl, rfl⟩)
    · exact done h' (.of_abortHash e rfl ⟨by simp, by simp, by simp⟩)
    · exact done h' (.keeps _ _ rfl ⟨by simp, by simp, by simp⟩)
  | macInit =>
    rcases exec_macInit_cases s with ⟨_, h'⟩ | ⟨_, ⟨_, h'⟩ | ⟨_, h'⟩⟩
    · exact done h' (.rejected _)
    · exact done h' (.of_abortContext rfl)
    · exact done h' (.builds _ rfl (by simp))
  | macClone =>
    rcases exec_macClone_cases s with ⟨_, h'⟩ | ⟨_, h'⟩
    · exact done h' (.rejected _)
    · exact done h' (.keeps _ _ rfl ⟨by simp, by simp, by simp⟩)
  | macCompute =>
    rcases exec_macCompute_cases s with ⟨_, h'⟩ | ⟨_, ⟨_, h'⟩ | ⟨_, _, ⟨_, h'⟩ | ⟨_, ⟨_, h'⟩ | ⟨_, h'⟩⟩⟩⟩
    · exact done h' (.rejected _)
    · exact done h' (.rejected _)
    · exact done h' (.of_abortMac rfl ⟨rfl, rfl, rfl⟩)
    · exact done h' (.of_abortMac rfl ⟨by simp, by simp, by simp⟩)
    · exact done h' (.keeps _ _ rfl ⟨by simp, by simp, by simp⟩)
  | deriveKey =>
    rcases exec_deriveKey_cases s with ⟨_, h'⟩ | ⟨_, ⟨_, h'⟩ |
      ⟨_, _, _, ⟨_, h'⟩ | ⟨_, ⟨_, h'⟩ | ⟨_, ⟨_, h'⟩ | ⟨_, ⟨_, h'⟩ | ⟨_, h'⟩⟩⟩⟩⟩⟩
    · exact done h' (.rejected _)
    · exact done h' (.rejected _)
    · exact done h' (.of_abortContext rfl)
    · exact done h' (.of_abortContext rfl)
    · exact done h' (.of_abortContext rfl)
    · exact done h' (.of_abortContext rfl)
    · exact done h' (.builds _ rfl (by simp))

/-- A command ends with BUSY = 0 and DONE = 1 (spec/60_exceptions.md R250). -/
theorem CommandEnd.completes (h : CommandEnd i s t) : t.win.busy = false ∧ t.win.done = true := by
  cases h <;> simp

/-- CTX_VALID after a command (spec/10_state.md R39). -/
theorem CommandEnd.ctxValid (h : CommandEnd i s t) :
    t.dp.ctxValid =
      if buildsContext i = true ∧ t.win.errcode = .ok then true
      else if buildsContext i = true ∧ t.win.errcode = .bus then false
      else s.dp.ctxValid := by
  cases h with
  | rejected c hok hbus => simp [hok, hbus]
  | keeps u c hi hctx => simp [hi, hctx.ctxValid]
  | builds u hi hvalid => simp [hi, hvalid]
  | loses u hi hvalid => simp [hi, hvalid]

/-- A command that builds no context leaves the snapshots (spec/10_state.md R39). -/
theorem CommandEnd.snapshots (h : CommandEnd i s t) (hi : buildsContext i = false) :
    t.dp.ctxI = s.dp.ctxI ∧ t.dp.ctxO = s.dp.ctxO := by
  cases h with
  | rejected => exact ⟨rfl, rfl⟩
  | keeps u c _ hctx => exact ⟨hctx.ctxI, hctx.ctxO⟩
  | builds u hi' => exact absurd hi' (by simp [hi])
  | loses u hi' => exact absurd hi' (by simp [hi])

end CommandEnds

/-- The engine's step completes whatever word is latched, an illegal one with E_BAD_CMD (spec/10_state.md R27). -/
theorem State.engineStep_completes {s : State} (h : s.win.busy = true) :
    ∃ u, s.engineStep = .next u ∧ u.win.busy = false ∧ u.win.done = true ∧
      ∀ why, decode s.latch.cmd = .illegal why → u.win.errcode = .badCmd := by
  unfold State.engineStep
  rw [if_pos h]
  cases decode s.latch.cmd with
  | command i =>
    obtain ⟨u, hu⟩ := exec_next i s
    obtain ⟨hbusy, hdone⟩ := (exec_commandEnd hu).completes
    exact ⟨u, hu, hbusy, hdone, nofun⟩
  | illegal why => exact ⟨s.reject .badCmd, rfl, rfl, rfl, fun _ _ => rfl⟩

/-! ### A state after reset -/

/-- Both engines after reset. -/
theorem State.resetCompleted.engine {t : State} (h : t.resetCompleted) (e : EngineId) : t.dp.engine e = Engine.reset := by
  obtain ⟨-, h0, h1, -⟩ := h
  cases e
  · exact h0
  · exact h1

/-- STATUS after reset: both FSM fields FINALIZED, every other field 0 (spec/10_state.md R43). -/
theorem State.resetCompleted.readStatus {t : State} (h : t.resetCompleted) : t.readStatus = (0x000000A0, t) := by
  obtain ⟨hwin, h0, h1, -, -, hvalid⟩ := h
  have hstatus : t.status = 0x000000A0 := by
    rw [State.status, hwin, h0, h1, hvalid]
    decide
  rw [State.readStatus, if_neg (by simp [hwin, Window.reset]), hstatus]

/-! ### The statements -/

/-- Settles O4. -/
theorem idReadsS512 : Obligations.IdReadsS512 := by
  intro s v
  rw [show Reg.at? 0x00 = some .id from Reg.at?_offset .id]
  exact ⟨rfl, rfl⟩

/-- Settles O5. -/
theorem ctrlHoldsOnlyTheInterruptEnable : Obligations.CtrlHoldsOnlyTheInterruptEnable := by
  refine ⟨fun s v => ?_, rfl⟩
  rw [show Reg.at? 0x04 = some .ctrl from Reg.at?_offset .ctrl]
  exact ⟨rfl, Prod.ext (s.win.writeCtrl v).ctrl_eq rfl, rfl⟩

/-- Settles O7. While BUSY = 1 the flags DONE and ERR are 0 already, so that clearing them changes nothing. -/
theorem statusWriteClearsOnes : Obligations.StatusWriteClearsOnes := by
  intro s v
  rw [show Reg.at? 0x08 = some .status from Reg.at?_offset .status]
  refine ⟨?_, fun hflags hbusy => ?_⟩
  · simp only [State.writeReg, Window.writeStatus_eq]
  · obtain ⟨hdone, herr, -⟩ := hflags.1 hbusy
    simp [State.writeReg, hdone, herr]

/-- Settles O8. The engine's step from the issued state is BUSY, and so it completes. -/
theorem cmdWriteIssuesOrSetsOverrun : Obligations.CmdWriteIssuesOrSetsOverrun := by
  intro s v
  rw [show Reg.at? 0x0C = some .cmd from Reg.at?_offset .cmd]
  refine ⟨fun hbusy => if_pos hbusy, fun hidle => ?_⟩
  have hissue : s.writeReg (some .cmd) v = s.issue v := if_neg (by simp [hidle])
  rw [hissue]
  exact ⟨rfl, State.engineStep_completes (s := s.issue v) rfl⟩

/-- Settles O50, by the ways a command can end (`exec_commandEnd`) and the frames of the host's and the engine's
turns. -/
theorem contextChangesOnlyByItsBuilders : Obligations.ContextChangesOnlyByItsBuilders := by
  refine ⟨?commands, ?hostTurn, ?idleOrIllegal, ?noContext, ?status, ?reset, rfl⟩
  case commands =>
    intro i s t h
    exact ⟨(exec_commandEnd h).ctxValid, (exec_commandEnd h).snapshots⟩
  case hostTurn =>
    intro s t h hturn
    rw [step, hturn] at h
    obtain ⟨hdp, -⟩ := State.hostStep_frame h
    simp [hdp]
  case idleOrIllegal =>
    intro s t h hturn hcmd
    rcases step_cases h with ⟨hturn', -⟩ | ⟨-, -, rfl⟩ | ⟨-, hbusy, i, hi, -⟩ | ⟨-, -, -, -, rfl⟩ | ⟨hturn', -⟩
    · simp [hturn] at hturn'
    · rfl
    · simp [hbusy, hi] at hcmd
    · rfl
    · simp [hturn] at hturn'
  case noContext =>
    intro s hvalid
    constructor
    · rcases exec_macCompute_cases s with ⟨-, h⟩ | ⟨hvalid', -⟩
      · exact h
      · simp [hvalid] at hvalid'
    · rcases exec_macClone_cases s with ⟨-, h⟩ | ⟨hvalid', -⟩
      · exact h
      · simp [hvalid] at hvalid'
  case status => exact fun s => statusWord_getLsbD_ctxValid _ _ _ _
  case reset =>
    intro s
    obtain ⟨-, -, -, -, -, hvalid⟩ := s.resetEvent_resetCompleted
    exact hvalid

/-- Settles O53: either state is one after a completed reset, whose window, engines and context are those of R43. -/
theorem resetLeavesTheGivenValues : Obligations.ResetLeavesTheGivenValues := by
  intro s t ht
  have hreset : t.resetCompleted := by
    rcases ht with rfl | rfl
    · exact State.reset_resetCompleted
    · exact s.resetEvent_resetCompleted
  have hstatus : (t.readReg (some .status)).1 = 0x000000A0 := congrArg Prod.fst hreset.readStatus
  have hengine := hreset.engine
  obtain ⟨hwin, -, -, hI, hO, hvalid⟩ := hreset
  refine ⟨rfl, ?_, hstatus, ?_, ?_, ?_, ?_, ?_, ?_, ?_, ?_, ?_, ?_, ?_, ?_, ?_, hengine, hI, hO, hvalid,
    State.resetEvent_mem_idle⟩
  all_goals simp [State.readReg, Window.ctrl_eq, State.irq, hwin, Window.reset]

end Sys2Proof.Machine

/-! PROOFS. The family of spec/20_memory.md, the in-range check: a command that fails a check of spec/60_exceptions.md
R244 is rejected with the code of that check, E_ADDR among them. -/

namespace Sys2Proof.Machine

/-! ### In range -/

theorem Region.inRange_iff (r : Region) : r.inRange = true ↔ r.size = 0 ∨ r.base + r.size ≤ 2 ^ 32 := by
  rw [Region.inRange, Bool.or_eq_true, decide_eq_true_eq, decide_eq_true_eq, addressSpace]

theorem Region.inRange_eq_false_iff (r : Region) : r.inRange = false ↔ 0 < r.size ∧ 2 ^ 32 < r.base + r.size := by
  rw [← Bool.not_eq_true, r.inRange_iff, not_or, not_le, Nat.pos_iff_ne_zero]

theorem Platform.admitsRegion_of_empty (p : Platform) {r : Region} (h : r.size = 0) : p.admitsRegion r = true :=
  (p.admitsRegion_iff r).mpr (by simp [h])

/-- MemRead of no bytes answers none, whatever its address (spec/20_memory.md R68). -/
theorem State.memRead_of_empty (s : State) {r : Region} (h : r.size = 0) : s.memRead r = some [] := by
  rcases s.memRead_cases r with ⟨-, hread⟩ | ⟨hadmits, -⟩
  · rw [hread, h]
    rfl
  · simp [s.plat.admitsRegion_of_empty h] at hadmits

/-- MemWrite of no bytes changes nothing, whatever its address (spec/20_memory.md R68). -/
theorem State.memWrite_nil (s : State) (a : Nat) : s.memWrite a [] = .ok s := by
  rcases s.memWrite_cases a [] with ⟨-, hwrite⟩ | ⟨hadmits, -⟩
  · exact hwrite
  · simp [s.plat.admitsRegion_of_empty (r := ⟨a, 0⟩) rfl] at hadmits

/-! ### Rejection by a check -/

/-- The checks, with step 6 in the form in which the commands make it: not every region is in range
(spec/60_exceptions.md R244). -/
theorem precheck_eq (s : State) (i : Instr) : precheck s i =
    if finalizedMisuse s i then .finalized
    else if contextMissing s i then .noCtx
    else if lengthExceeded s i then .length
    else if saltCapacityShort s i then .saltCap
    else if (operandRegions s.latch i).all Region.inRange then .ok
    else .addr := by
  have hstep6 : (operandRegions s.latch i).any (fun r => decide (0 < r.size ∧ 2 ^ 32 < r.base + r.size)) =
      !(operandRegions s.latch i).all Region.inRange := by
    simp only [← Region.inRange_eq_false_iff, List.not_all_eq_any_not, Bool.decide_eq_false]
  rw [precheck, hstep6]
  cases (operandRegions s.latch i).all Region.inRange <;> rfl

/-- A command one of whose checks fails completes with the code of the first that does, and changes nothing else
(spec/60_exceptions.md R244, R246). -/
theorem exec_of_precheck_ne_ok {i : Instr} {s : State} (h : precheck s i ≠ .ok) :
    exec i s = .next (s.complete (precheck s i)) := by
  rw [precheck_eq] at h ⊢
  cases i <;>
    simp only [finalizedMisuse, contextMissing, lengthExceeded, saltCapacityShort, operandRegions, List.all_cons,
      List.all_nil, Bool.and_true, Bool.false_eq_true, if_false, decide_eq_true_eq, Bool.not_eq_true'] at h ⊢
  case hashInit => exact absurd rfl h
  case hashUpdate e =>
    rcases exec_hashUpdate_cases e s with ⟨hfsm, hx⟩ | ⟨hfsm, hlen, hx⟩ | ⟨hfsm, hlen, ⟨hr, hx⟩ | ⟨hr, -⟩⟩
    · simp [hfsm, hx]
    · simp [hfsm, hlen, hx]
    · simp [hfsm, hlen.not_gt, hr, hx]
    · simp [hfsm, hlen.not_gt, hr] at h
  case hashFinalize e =>
    rcases exec_hashFinalize_cases e s with ⟨hfsm, hx⟩ | ⟨hfsm, ⟨hr, hx⟩ | ⟨hr, -⟩⟩
    · simp [hfsm, hx]
    · simp [hfsm, hr, hx]
    · simp [hfsm, hr] at h
  case hashOneshot e =>
    rcases exec_hashOneshot_cases e s with ⟨hr | hr, hx⟩ | ⟨hsrc, hdst, -⟩
    · simp [hr, hx]
    · simp [hr, hx]
    · simp [hsrc, hdst] at h
  case macInit =>
    rcases exec_macInit_cases s with ⟨hr, hx⟩ | ⟨hr, -⟩
    · simp [hr, hx]
    · simp [hr] at h
  case macClone =>
    rcases exec_macClone_cases s with ⟨hctx, hx⟩ | ⟨hctx, -⟩
    · simp [hctx, hx]
    · simp [hctx] at h
  case macCompute =>
    rcases exec_macCompute_cases s with ⟨hctx, hx⟩ | ⟨hctx, ⟨hr | hr, hx⟩ | ⟨hsrc, hdst, -⟩⟩
    · simp [hctx, hx]
    · simp [hctx, hr, hx]
    · simp [hctx, hr, hx]
    · simp [hctx, hsrc, hdst] at h
  case deriveKey =>
    rcases exec_deriveKey_cases s with ⟨hcap, hx⟩ | ⟨hcap, ⟨hr | hr | hr, hx⟩ | ⟨hsrc, hdst, hsalt, -⟩⟩
    · simp [hcap, hx]
    · simp [hcap.not_gt, hr, hx]
    · simp [hcap.not_gt, hr, hx]
    · simp [hcap.not_gt, hr, hx]
    · simp [hcap.not_gt, hsrc, hdst, hsalt] at h

/-- Settles O21. With the four earlier checks passed, a region out of range makes E_ADDR the code of the first check
that fails. -/
theorem outOfRangeRegionsAreRejected : Obligations.OutOfRangeRegionsAreRejected := by
  refine ⟨Region.inRange_iff, ?rejected, fun s _ => s.memRead_of_empty, State.memWrite_nil⟩
  intro i s hfsm hctx hlen hcap hregion
  have haddr : precheck s i = .addr := by
    simpa [precheck, hfsm, hctx, hlen, hcap] using hregion
  rw [exec_of_precheck_ne_ok (by simp [haddr]), haddr]

end Sys2Proof.Machine

/-! PROOFS. The family of spec/30_encoding.md: a command word is its three fields and nothing else, what decoding says
of them, and the statements settled from these. -/

namespace Sys2Proof

open Machine

/-! ### A word and its fields -/

@[simp] theorem fieldsOf_wordOf (c : CmdFields) : fieldsOf (wordOf c) = c := by
  have hrsvd : (wordOf c).extractLsb' 9 23 = c.rsvd :=
    (BitVec.extractLsb'_append_eq_of_le (by decide)).trans BitVec.extractLsb'_append_eq_left
  have heng : (wordOf c).extractLsb' 8 1 = c.eng :=
    (BitVec.extractLsb'_append_eq_of_le (by decide)).trans BitVec.extractLsb'_append_eq_right
  have hopcode : (wordOf c).extractLsb' 0 8 = c.opcode := BitVec.extractLsb'_append_eq_right
  rw [fieldsOf, hrsvd, heng, hopcode]

@[simp] theorem wordOf_fieldsOf (w : Word32) : wordOf (fieldsOf w) = w := by
  calc (w.extractLsb' 9 23 ++ w.extractLsb' 8 1) ++ w.extractLsb' 0 8
      = w.extractLsb' 8 24 ++ w.extractLsb' 0 8 :=
        congrArg (· ++ w.extractLsb' 0 8) (BitVec.extractLsb'_append_extractLsb'_eq_extractLsb' rfl)
    _ = w.extractLsb' 0 32 := BitVec.extractLsb'_append_extractLsb'_eq_extractLsb' rfl
    _ = w := BitVec.extractLsb'_eq_self

/-- The word of a command is the one word with its fields (spec/30_encoding.md R93). -/
theorem eq_encode_iff {w : Word32} {i : Instr} : w = encode i ↔ fieldsOf w = i.fields := by
  constructor
  · rintro rfl
    exact fieldsOf_wordOf _
  · intro h
    rw [encode, ← h, wordOf_fieldsOf]

/-! ### Legal fields -/

theorem Instr.wellFormed_eq_true (i : Instr) : i.wellFormed = true := by
  cases i with
  | hashInit e => exact (Laws.Legal.hashInit e).1
  | hashUpdate e => exact (Laws.Legal.hashUpdate e).1
  | hashFinalize e => exact (Laws.Legal.hashFinalize e).1
  | hashOneshot e => exact (Laws.Legal.hashOneshot e).1
  | macInit => exact Laws.Legal.macInit.1
  | macClone => exact Laws.Legal.macClone.1
  | macCompute => exact Laws.Legal.macCompute.1
  | deriveKey => exact Laws.Legal.deriveKey.1

theorem CmdFields.eng_eq_zero_or_one (c : CmdFields) : c.eng = 0 ∨ c.eng = 1 :=
  BitVec.eq_zero_or_eq_one c.eng

theorem CmdFields.isHashOpcode_eq_false_iff (c : CmdFields) :
    c.isHashOpcode = false ↔ c.opcode ∉ ([0x01, 0x02, 0x03, 0x04] : List (BitVec 8)) := by
  simp [isHashOpcode, and_assoc]

theorem CmdFields.opcodeKnown_eq_false_iff (c : CmdFields) : c.opcodeKnown = false ↔
    c.opcode ∉ ([0x01, 0x02, 0x03, 0x04, 0x10, 0x11, 0x12, 0x20] : List (BitVec 8)) := by
  simp [opcodeKnown, isHashOpcode, and_assoc]

theorem CmdFields.engineBitAllowed_eq_false_iff (c : CmdFields) :
    c.engineBitAllowed = false ↔ c.eng = 1 ∧ c.isHashOpcode = false := by
  rcases c.eng_eq_zero_or_one with heng | heng <;> simp [engineBitAllowed, heng]

/-- The three conditions of spec/30_encoding.md R94. -/
theorem CmdFields.wellFormed_eq_false_iff (c : CmdFields) : c.wellFormed = false ↔
    c.opcodeKnown = false ∨ c.rsvd ≠ 0 ∨ c.engineBitAllowed = false := by
  simp only [wellFormed, reservedClear, Bool.and_eq_false_iff, beq_eq_false_iff_ne, or_assoc]
  exact or_left_comm

/-! ### Decoding fields -/

@[simp] theorem bit_engineOf (b : BitVec 1) : (engineOf b).bit = b := by
  rcases BitVec.eq_zero_or_eq_one b with rfl | rfl <;> rfl

/-- What an answer of the decoder says of the fields it decoded: a command is the one with these fields, and illegal
fields are not well-formed. -/
def Decoded.Describes (c : CmdFields) : Decoded → Prop
  | .command i => c = i.fields
  | .illegal _ => c.wellFormed = false

theorem eq_fields_of_row {c : CmdFields} {op : BitVec 8} (hrsvd : c.rsvd = 0) (hop : c.opcode = op) :
    c = ⟨0, (engineOf c.eng).bit, op⟩ := by
  rw [bit_engineOf, ← hrsvd, ← hop]

/-- An opcode without an engine decodes to its command or, with ENG = 1, to no command (spec/30_encoding.md R94). -/
theorem engineFree_describes {c : CmdFields} {op : BitVec 8} {i : Instr} (hrsvd : c.rsvd = 0) (hop : c.opcode = op)
    (hi : i.fields = ⟨0, 0, op⟩) (hhash : op ∉ ([0x01, 0x02, 0x03, 0x04] : List (BitVec 8))) :
    (engineFree c i).Describes c := by
  subst hop
  rcases c.eng_eq_zero_or_one with heng | heng
  · have hc : c = i.fields := by rw [hi, ← hrsvd, ← heng]
    rwa [engineFree, if_pos heng]
  · have hbit : c.engineBitAllowed = false :=
      c.engineBitAllowed_eq_false_iff.mpr ⟨heng, c.isHashOpcode_eq_false_iff.mpr hhash⟩
    rw [engineFree, if_neg (by simp [heng])]
    exact c.wellFormed_eq_false_iff.mpr (.inr (.inr hbit))

/-- What the decoder answers is right, row by row of spec/30_encoding.md R95. -/
theorem decodeFields_describes (c : CmdFields) : (decodeFields c).Describes c := by
  unfold decodeFields
  by_cases hrsvd : c.rsvd = 0
  · rw [if_neg (not_not.mpr hrsvd)]
    split_ifs with h01 h02 h03 h04 h10 h11 h12 h20
    · exact eq_fields_of_row hrsvd h01
    · exact eq_fields_of_row hrsvd h02
    · exact eq_fields_of_row hrsvd h03
    · exact eq_fields_of_row hrsvd h04
    · exact engineFree_describes hrsvd h10 rfl (by decide)
    · exact engineFree_describes hrsvd h11 rfl (by decide)
    · exact engineFree_describes hrsvd h12 rfl (by decide)
    · exact engineFree_describes hrsvd h20 rfl (by decide)
    · have hunknown : c.opcodeKnown = false := by
        rw [c.opcodeKnown_eq_false_iff]
        simp only [List.mem_cons, List.not_mem_nil, or_false, not_or]
        exact ⟨h01, h02, h03, h04, h10, h11, h12, h20⟩
      exact c.wellFormed_eq_false_iff.mpr (.inl hunknown)
  · rw [if_pos hrsvd]
    exact c.wellFormed_eq_false_iff.mpr (.inr (.inl hrsvd))

/-- Decoding the fields of a command gives it back. -/
@[simp] theorem decodeFields_fields (i : Instr) : decodeFields i.fields = .command i := by
  cases i with
  | hashInit e => cases e <;> rfl
  | hashUpdate e => cases e <;> rfl
  | hashFinalize e => cases e <;> rfl
  | hashOneshot e => cases e <;> rfl
  | macInit => rfl
  | macClone => rfl
  | macCompute => rfl
  | deriveKey => rfl

theorem decodeFields_eq_command_iff (c : CmdFields) (i : Instr) : decodeFields c = .command i ↔ c = i.fields := by
  constructor
  · intro h
    have hc := decodeFields_describes c
    rwa [h] at hc
  · rintro rfl
    exact decodeFields_fields i

/-- The illegal fields are those that are not well-formed (spec/30_encoding.md R94). -/
theorem decodeFields_eq_illegal_iff (c : CmdFields) :
    (∃ why, decodeFields c = .illegal why) ↔ c.wellFormed = false := by
  have hc := decodeFields_describes c
  cases hd : decodeFields c with
  | command i =>
    rw [hd] at hc
    have hlegal : c.wellFormed = true := hc ▸ i.wellFormed_eq_true
    simp [hlegal]
  | illegal why =>
    rw [hd] at hc
    exact iff_of_true ⟨why, rfl⟩ hc

/-! ### The statements -/

/-- Settles O1. A word and its fields determine each other, and fields decode to a command exactly when they are its
own; the twelve words are computed. -/
theorem decodeAcceptsExactlyTheCommandWords : Obligations.DecodeAcceptsExactlyTheCommandWords := by
  refine ⟨fun w i => ?roundTrip, by decide⟩
  rw [decode, decodeFields_eq_command_iff, eq_encode_iff]

/-- Settles O3. Illegal words are those whose fields are not well-formed, and each of the three checks of
well-formedness is one condition of R94. -/
theorem illegalWordsCompleteWithBadCmd : Obligations.IllegalWordsCompleteWithBadCmd := by
  refine ⟨fun w => ?illegal, fun w s hidle => ?accepted, fun s why hbusy hcmd => ?completes⟩
  case illegal =>
    rw [decode, decodeFields_eq_illegal_iff, CmdFields.wellFormed_eq_false_iff, CmdFields.opcodeKnown_eq_false_iff,
      CmdFields.engineBitAllowed_eq_false_iff, CmdFields.isHashOpcode_eq_false_iff]
    rfl
  case accepted => exact if_neg (by simp [hidle])
  case completes =>
    rw [State.engineStep, if_pos hbusy, hcmd]
    rfl

end Sys2Proof

/-! PROOFS. The family of spec/40_compression.md: the word functions bit by bit, the message schedule as 16 block words
and a recurrence, the 80 rounds one register set after another, and the statements settled from these. -/

namespace Sys2Proof.Machine

/-! ### The word functions, bit by bit -/

/-- A right rotation brings bit i + n, counted mod 64, to bit i (spec/40_compression.md R110): the right shift gives it
below bit 64 - n, the left shift from there on. -/
theorem getLsbD_rotr (x : Word64) {n i : Nat} (hn : n < 64) (hi : i < 64) :
    (rotr x n).getLsbD i = x.getLsbD ((i + n) % 64) := by
  simp only [rotr, BitVec.getLsbD_or, BitVec.getLsbD_ushiftRight, BitVec.getLsbD_shiftLeft]
  by_cases hwrap : i + n < 64
  · have hleft : i < 64 - n := by omega
    simp [hleft, Nat.mod_eq_of_lt hwrap, Nat.add_comm n i]
  · have hleft : ¬ i < 64 - n := by omega
    have hindex : (i + n) % 64 = i - (64 - n) := by omega
    simp [hleft, hi, hindex, BitVec.getLsbD_of_ge x (n + i) (by omega)]

@[simp] theorem getLsbD_shr (x : Word64) (n i : Nat) : (shr x n).getLsbD i = x.getLsbD (i + n) := by
  rw [shr, BitVec.getLsbD_ushiftRight, Nat.add_comm]

theorem toNat_rotr (x : Word64) (n : Nat) :
    (rotr x n).toNat = ((x.toNat >>> n) ||| (x.toNat <<< (64 - n))) % 2 ^ 64 := by
  have hright : x.toNat >>> n < 2 ^ 64 := Nat.lt_of_le_of_lt (Nat.shiftRight_le _ _) x.isLt
  rw [rotr, BitVec.toNat_or, BitVec.toNat_ushiftRight, BitVec.toNat_shiftLeft, Nat.or_mod_two_pow,
    Nat.mod_eq_of_lt hright]

theorem toNat_shr (x : Word64) (n : Nat) : (shr x n).toNat = x.toNat / 2 ^ n := by
  rw [shr, BitVec.toNat_ushiftRight, Nat.shiftRight_eq_div_pow]

@[simp] theorem rotr_zero (n : Nat) : rotr 0 n = 0 := by
  simp [rotr]

theorem rotr_allOnes {n : Nat} (hn : n < 64) : rotr (BitVec.allOnes 64) n = BitVec.allOnes 64 := by
  apply BitVec.eq_of_getLsbD_eq
  intro i hi
  rw [getLsbD_rotr _ hn hi, BitVec.getLsbD_allOnes, BitVec.getLsbD_allOnes]
  simp [hi, Nat.mod_lt]

theorem getLsbD_choose (x y z : Word64) {i : Nat} (hi : i < 64) :
    (choose x y z).getLsbD i = if x.getLsbD i then y.getLsbD i else z.getLsbD i := by
  simp only [choose, BitVec.getLsbD_xor, BitVec.getLsbD_and, BitVec.getLsbD_not, hi, decide_true, Bool.true_and]
  cases x.getLsbD i <;> simp

theorem getLsbD_majority (x y z : Word64) (i : Nat) :
    (majority x y z).getLsbD i =
      ((x.getLsbD i && y.getLsbD i) || (x.getLsbD i && z.getLsbD i) || (y.getLsbD i && z.getLsbD i)) := by
  simp only [majority, BitVec.getLsbD_xor, BitVec.getLsbD_and]
  cases x.getLsbD i <;> cases y.getLsbD i <;> cases z.getLsbD i <;> rfl

@[simp] theorem choose_allOnes (y z : Word64) : choose (BitVec.allOnes 64) y z = y := by
  rw [choose, BitVec.allOnes_and, BitVec.not_allOnes, BitVec.zero_and, BitVec.xor_zero]

@[simp] theorem choose_zero (y z : Word64) : choose 0 y z = z := by
  rw [choose, BitVec.ofNat_eq_ofNat, BitVec.zero_and, BitVec.not_zero, BitVec.allOnes_and, BitVec.zero_xor]

@[simp] theorem majority_self (x z : Word64) : majority x x z = x := by
  simp [majority]

theorem majority_swap_left (x y z : Word64) : majority x y z = majority y x z := by
  simp only [majority, BitVec.and_comm x y, BitVec.xor_assoc, BitVec.xor_comm (x &&& z)]

theorem majority_swap_right (x y z : Word64) : majority x y z = majority x z y := by
  simp only [majority, BitVec.and_comm y z, BitVec.xor_comm (x &&& y)]

/-! ### Vectors of schedule words written in order -/

@[simp] theorem wordAt_setIfInBounds_self (w : Vector Word64 80) {t : Nat} (ht : t < 80) (x : Word64) :
    wordAt (w.setIfInBounds t x) t = x := by
  simp [wordAt, ht]

theorem wordAt_setIfInBounds_of_ne (w : Vector Word64 80) {t u : Nat} (h : t ≠ u) (x : Word64) :
    wordAt (w.setIfInBounds t x) u = wordAt w u := by
  simp [wordAt, h]

theorem eq_of_wordAt_eq {w w' : Vector Word64 80} (h : ∀ t, t < 80 → wordAt w t = wordAt w' t) : w = w' := by
  apply Vector.ext
  intro t ht
  simpa [wordAt, ht] using h t ht

/-- Words s, s + 1, .., s + n - 1 written in that order, each computed by `g` from the words as they stand: the shape of
`ingest` and of `expand`. -/
def fillWords (g : Vector Word64 80 → Nat → Word64) (s n : Nat) (w : Vector Word64 80) : Vector Word64 80 :=
  (List.range' s n).foldl (fun w t => w.setIfInBounds t (g w t)) w

theorem ingest_eq_fillWords (B : List Byte) (w : Vector Word64 80) :
    ingest B w = fillWords (fun _ t => be64 B (8 * t)) 0 16 w := rfl

theorem expand_eq_fillWords (w : Vector Word64 80) : expand w = fillWords expandedWord 16 64 w := rfl

section Fill
variable (g : Vector Word64 80 → Nat → Word64) (s : Nat) (w : Vector Word64 80)

@[simp] theorem fillWords_zero : fillWords g s 0 w = w := rfl

theorem fillWords_succ (n : Nat) :
    fillWords g s (n + 1) w =
      (fillWords g s n w).setIfInBounds (s + n) (g (fillWords g s n w) (s + n)) := by
  simp [fillWords, List.range'_1_concat]

/-- A word below the one written next stays as it is. -/
theorem wordAt_fillWords_of_le {k n u : Nat} (hkn : k ≤ n) (hu : u < s + k) :
    wordAt (fillWords g s n w) u = wordAt (fillWords g s k w) u := by
  induction n, hkn using Nat.le_induction with
  | base => rfl
  | succ n hkn ih => rw [fillWords_succ, wordAt_setIfInBounds_of_ne _ (by omega), ih]

/-- Word s + k is what `g` makes of the k words written before it. -/
theorem wordAt_fillWords {k n : Nat} (hkn : k < n) (hk : s + k < 80) :
    wordAt (fillWords g s n w) (s + k) = g (fillWords g s k w) (s + k) := by
  rw [wordAt_fillWords_of_le g s w hkn (by omega), fillWords_succ, wordAt_setIfInBounds_self _ hk]

end Fill

/-! ### The message schedule -/

theorem wordAt_ingest (B : List Byte) (w : Vector Word64 80) {t : Nat} (ht : t < 16) :
    wordAt (ingest B w) t = be64 B (8 * t) := by
  simpa [ingest_eq_fillWords] using
    wordAt_fillWords (fun _ t => be64 B (8 * t)) 0 w ht (by omega)

theorem wordAt_expand_of_lt (w : Vector Word64 80) {t : Nat} (ht : t < 16) : wordAt (expand w) t = wordAt w t :=
  wordAt_fillWords_of_le expandedWord 16 w (Nat.zero_le 64) ht

/-- The recurrence reads only words before the one it gives. -/
theorem expandedWord_congr {v w : Vector Word64 80} {t : Nat} (ht : 16 ≤ t)
    (h : ∀ u, u < t → wordAt v u = wordAt w u) : expandedWord v t = expandedWord w t := by
  simp only [expandedWord, h (t - 2) (by omega), h (t - 7) (by omega), h (t - 15) (by omega), h (t - 16) (by omega)]

/-- The recurrence holds of the finished schedule, since the words it read are final when it reads them
(spec/40_compression.md R126). -/
theorem wordAt_expand (w : Vector Word64 80) {t : Nat} (hlow : 16 ≤ t) (hhigh : t < 80) :
    wordAt (expand w) t = expandedWord (expand w) t := by
  obtain ⟨k, rfl⟩ := Nat.exists_eq_add_of_le hlow
  rw [expand_eq_fillWords, wordAt_fillWords expandedWord 16 w (by omega) hhigh]
  apply expandedWord_congr hlow
  intro u hu
  exact (wordAt_fillWords_of_le expandedWord 16 w (by omega) hu).symm

theorem wordAt_schedule_of_lt (B : List Byte) (w : Vector Word64 80) {t : Nat} (ht : t < 16) :
    wordAt (expand (ingest B w)) t = be64 B (8 * t) := by
  rw [wordAt_expand_of_lt _ ht, wordAt_ingest B w ht]

/-- The schedule is a function of the block: what W held before is not read (spec/40_compression.md R125, R126). -/
theorem expand_ingest_eq (B : List Byte) (w w' : Vector Word64 80) : expand (ingest B w) = expand (ingest B w') := by
  apply eq_of_wordAt_eq
  intro t
  induction t using Nat.strong_induction_on with
  | _ t ih =>
    intro ht
    by_cases hblock : t < 16
    · rw [wordAt_schedule_of_lt B w hblock, wordAt_schedule_of_lt B w' hblock]
    · have hlow : 16 ≤ t := Nat.le_of_not_lt hblock
      rw [wordAt_expand _ hlow ht, wordAt_expand _ hlow ht]
      exact expandedWord_congr hlow fun u hu => ih u hu (by omega)

@[simp] theorem be64_replicate_zero (n i : Nat) : be64 (List.replicate n 0) i = 0 := by
  simp only [be64, List.getD_eq_getElem?_getD, List.getElem?_getD_replicate_default_eq]
  rfl

theorem wordAt_schedule_zero (n : Nat) (w : Vector Word64 80) {t : Nat} (ht : t < 80) :
    wordAt (expand (ingest (List.replicate n 0) w)) t = 0 := by
  induction t using Nat.strong_induction_on with
  | _ t ih =>
    by_cases hblock : t < 16
    · rw [wordAt_schedule_of_lt _ _ hblock, be64_replicate_zero]
    · rw [wordAt_expand _ (by omega) ht, expandedWord, ih (t - 2) (by omega) (by omega),
        ih (t - 7) (by omega) (by omega), ih (t - 15) (by omega) (by omega), ih (t - 16) (by omega) (by omega)]
      decide

/-! ### The rounds -/

/-- The registers before round t, from the schedule and the registers loaded (spec/40_compression.md R127, R128). -/
def workingBefore (w : Vector Word64 80) (r : Working) : Nat → Working
  | 0 => r
  | t + 1 =>
    let before := workingBefore w r t
    rotateWorking before (temp1 before (roundConstant t) (wordAt w t)) (temp2 before)

theorem foldl_compressRound_w (ws : Workspace) (ts : List Nat) : (ts.foldl compressRound ws).w = ws.w := by
  induction ts generalizing ws with
  | nil => rfl
  | cons t ts ih => exact ih (compressRound ws t)

/-- The first n rounds leave the registers that `workingBefore` gives for round n. -/
theorem foldl_compressRound_regs (ws : Workspace) (n : Nat) :
    ((List.range n).foldl compressRound ws).regs = workingBefore ws.w ws.regs n := by
  induction n with
  | zero => rfl
  | succ n ih => simp [List.range_succ, compressRound, workingBefore, foldl_compressRound_w, ih]

/-- The compression is the registers after round 79 added to H (spec/40_compression.md R129, R130). -/
theorem compress_eq (h : HashWords) (B : List Byte) (ws : Workspace) :
    compress h B ws = feedForward h (workingBefore (expand (ingest B ws.w)) (loadWorking h) 80) := by
  rw [compress, compressWorkspace, compressRounds, foldl_compressRound_regs]

/-! ### The statements -/

/-- Settles O24. -/
theorem rotateAndShiftMoveBits : Obligations.RotateAndShiftMoveBits := by
  refine ⟨fun x n _ hn => ⟨toNat_rotr x n, fun i hi => getLsbD_rotr x hn hi, rotr_zero n, rotr_allOnes hn⟩, toNat_shr,
    ?examples⟩
  case examples => decide

/-- Settles O25. -/
theorem choiceAndMajoritySelectBits : Obligations.ChoiceAndMajoritySelectBits := by
  refine ⟨fun x y z i hi => ⟨getLsbD_choose x y z hi, getLsbD_majority x y z i⟩,
    fun y z => ⟨choose_allOnes y z, choose_zero y z⟩,
    fun x y z => ⟨majority_self x z, majority_swap_left x y z, majority_swap_right x y z⟩, ?examples⟩
  case examples => decide

/-- Settles O26. Bit i of an exclusive or is that of its three terms, each a rotation or a shift of x. -/
theorem sigmaFunctionsMixBits : Obligations.SigmaFunctionsMixBits := by
  refine ⟨fun x i hi => ?bits, ?examples⟩
  case bits => simp [bsig0, bsig1, ssig0, ssig1, getLsbD_rotr _ _ hi]
  case examples => decide

/-- Settles O27. The examples are computed from one earlier W, which stands for all (`expand_ingest_eq`). -/
theorem scheduleFollowsTheRecurrence : Obligations.ScheduleFollowsTheRecurrence := by
  refine ⟨fun B w0 => ⟨fun t ht => wordAt_schedule_of_lt B w0 ht, fun t hlow hhigh => wordAt_expand _ hlow hhigh⟩,
    fun w0 t ht => wordAt_schedule_zero 128 w0 ht, fun w0 => ?abc⟩
  rw [expand_ingest_eq _ w0 Scratch.reset.ws.w]
  decide +kernel

/-- Settles O28. The examples are computed from one earlier W, which stands for all (`expand_ingest_eq`). -/
theorem compressRunsEightyRounds : Obligations.CompressRunsEightyRounds := by
  intro h B ws
  refine ⟨workingBefore (expand (ingest B ws.w)) (loadWorking h), rfl, fun t _ => rfl, compress_eq h B ws, ?loaded, ?abc⟩
  case loaded =>
    rintro rfl
    exact ⟨rfl, rfl⟩
  case abc =>
    rintro rfl rfl
    rw [compress_eq, expand_ingest_eq _ ws.w Scratch.reset.ws.w]
    decide +kernel

end Sys2Proof.Machine

/-! PROOFS. The family of spec/41_hash_engine.md: the digest byte by byte, the big-endian word its bytes are read back as,
and the statements settled from these. -/

namespace Sys2Proof.Machine

/-! ### The digest -/

/-- Byte 8i + j of the digest is bits 63-8j down to 56-8j of H[i] (spec/41_hash_engine.md R159). -/
theorem digest_getD (h : HashWords) (i : Fin 8) {j : Nat} (hj : j < 8) :
    (digest h).toList.getD (8 * i.val + j) 0 = (h[i]).extractLsb' (56 - 8 * j) 8 := by
  have hword : (8 * i.val + j) / 8 = i.val := by omega
  have hbyte : (8 * i.val + j) % 8 = j := by omega
  have hlt : 8 * i.val + j < 64 := by omega
  simp [digest, hlt, hword, hbyte]

/-- Eight bytes that are a word's own bytes, most significant first, read back as that word
(spec/00_scope.md R10). -/
theorem be64_eq_of_bytes {B : List Byte} {i : Nat} {x : Word64}
    (hbytes : ∀ j, j < 8 → B.getD (i + j) 0 = x.extractLsb' (56 - 8 * j) 8) : be64 B i = x := by
  have hfirst : B.getD i 0 = x.extractLsb' 56 8 := hbytes 0 (by decide)
  rw [be64, hfirst, hbytes 1 (by decide), hbytes 2 (by decide), hbytes 3 (by decide), hbytes 4 (by decide),
    hbytes 5 (by decide), hbytes 6 (by decide), hbytes 7 (by decide)]
  iterate 7 rw [BitVec.extractLsb'_append_extractLsb'_eq_extractLsb' (by decide)]
  exact BitVec.extractLsb'_eq_self

/-! ### The statements -/

/-- Settles O32. -/
theorem digestEmitsBigEndianWords : Obligations.DigestEmitsBigEndianWords := by
  intro h i
  exact ⟨fun j hj => digest_getD h i hj, be64_eq_of_bytes fun j hj => digest_getD h i hj⟩

/-- Settles O33. The eight words written out in the statement are those of the ROM (spec/40_compression.md R120). -/
theorem engineInitStartsAnEngine : Obligations.EngineInitStartsAnEngine := by
  intro l
  rw [Lane.init, iv]

end Sys2Proof.Machine

/-! PROOFS. The family of spec/60_exceptions.md: the code a command ends with, the window it leaves, what a rejection
leaves unchanged, and the interrupt line. -/

namespace Sys2Proof.Machine

/-! ### The window a command leaves -/

/-- The code a command completes with: that of the first check that fails, else E_BUS where a byte of its footprint is
not admitted, else E_OK (spec/60_exceptions.md R244). -/
def completionCode (s : State) (i : Instr) : ErrCode :=
  if precheck s i ≠ .ok then precheck s i else if footprintAdmitted s i then .ok else .bus

/-- The window a command leaves when it completes with a code: AUX_LEN is written by a DERIVE_KEY that succeeds
(spec/60_exceptions.md R250, spec/43_key_stretcher.md R226). -/
def State.completedWindow (s : State) (i : Instr) (c : ErrCode) : Window :=
  { s.win.complete c with
    auxLen := if i = .deriveKey ∧ c = .ok then s.latch.auxLen + 4 else s.win.auxLen }

section CompletedWindow
variable (s : State) (i : Instr) (c : ErrCode)

@[simp] theorem State.completedWindow_irqEn : (s.completedWindow i c).irqEn = s.win.irqEn := rfl
@[simp] theorem State.completedWindow_done : (s.completedWindow i c).done = true := rfl
@[simp] theorem State.completedWindow_errcode : (s.completedWindow i c).errcode = c := rfl

/-- A command other than DERIVE_KEY writes no operand register. -/
@[simp] theorem State.completedWindow_of_ne {i : Instr} (hi : i ≠ .deriveKey) :
    s.completedWindow i c = s.win.complete c := by
  rw [State.completedWindow, if_neg (fun h => hi h.1)]
  rfl

/-- A command that does not succeed writes no operand register. -/
@[simp] theorem State.completedWindow_of_ne_ok {c : ErrCode} (hc : c ≠ .ok) :
    s.completedWindow i c = s.win.complete c := by
  rw [State.completedWindow, if_neg (fun h => hc h.2)]
  rfl

end CompletedWindow

/-- A command none of whose checks fails succeeds when its footprint is admitted and aborts with E_BUS otherwise, at
the first of its regions, in the order of its accesses, that is not (spec/60_exceptions.md R244). -/
theorem exec_of_precheck_eq_ok {i : Instr} {s : State} (h : precheck s i = .ok) :
    ∃ t, exec i s = .next t ∧ t.win = s.completedWindow i (if footprintAdmitted s i then .ok else .bus) := by
  rw [precheck_eq] at h
  cases i <;>
    simp only [finalizedMisuse, contextMissing, lengthExceeded, saltCapacityShort, operandRegions, List.all_cons,
      List.all_nil, Bool.and_true, Bool.false_eq_true, if_false, decide_eq_true_eq, Bool.not_eq_true',
      footprintAdmitted, Platform.admitsFootprint, readSet, writeSet, List.cons_append, List.nil_append] at h ⊢
  case hashInit e => exact ⟨_, exec_hashInit e s, rfl⟩
  case hashUpdate e =>
    rcases exec_hashUpdate_cases e s with
      ⟨hfsm, -⟩ | ⟨hfsm, hlen, -⟩ | ⟨hfsm, hlen, ⟨hr, -⟩ | ⟨-, ⟨hsrc, hx⟩ | ⟨hsrc, hx⟩⟩⟩
    · simp [hfsm] at h
    · simp [hfsm, hlen] at h
    · simp [hfsm, hlen.not_gt, hr] at h
    · exact ⟨_, hx, by simp [hsrc]⟩
    · exact ⟨_, hx, by simp [hsrc]⟩
  case hashFinalize e =>
    rcases exec_hashFinalize_cases e s with ⟨hfsm, -⟩ | ⟨hfsm, ⟨hr, -⟩ | ⟨-, ⟨hdst, hx⟩ | ⟨hdst, hx⟩⟩⟩
    · simp [hfsm] at h
    · simp [hfsm, hr] at h
    · exact ⟨_, hx, by simp [hdst]⟩
    · exact ⟨_, hx, by simp [hdst]⟩
  case hashOneshot e =>
    rcases exec_hashOneshot_cases e s with ⟨hr | hr, -⟩ | ⟨-, -, ⟨hsrc, hx⟩ | ⟨hsrc, ⟨hdst, hx⟩ | ⟨hdst, hx⟩⟩⟩
    · simp [hr] at h
    · simp [hr] at h
    · exact ⟨_, hx, by simp [hsrc]⟩
    · exact ⟨_, hx, by simp [hdst]⟩
    · exact ⟨_, hx, by simp [hsrc, hdst]⟩
  case macInit =>
    rcases exec_macInit_cases s with ⟨hr, -⟩ | ⟨-, ⟨hsrc, hx⟩ | ⟨hsrc, hx⟩⟩
    · simp [hr] at h
    · exact ⟨_, hx, by simp [hsrc]⟩
    · exact ⟨_, hx, by simp [hsrc]⟩
  case macClone =>
    rcases exec_macClone_cases s with ⟨hctx, -⟩ | ⟨-, hx⟩
    · simp [hctx] at h
    · exact ⟨_, hx, by simp⟩
  case macCompute =>
    rcases exec_macCompute_cases s with
      ⟨hctx, -⟩ | ⟨hctx, ⟨hr | hr, -⟩ | ⟨-, -, ⟨hsrc, hx⟩ | ⟨hsrc, ⟨hdst, hx⟩ | ⟨hdst, hx⟩⟩⟩⟩
    · simp [hctx] at h
    · simp [hctx, hr] at h
    · simp [hctx, hr] at h
    · exact ⟨_, hx, by simp [hsrc]⟩
    · exact ⟨_, hx, by simp [hdst]⟩
    · exact ⟨_, hx, by simp [hsrc, hdst]⟩
  case deriveKey =>
    rcases exec_deriveKey_cases s with ⟨hcap, -⟩ | ⟨hcap, ⟨hr | hr | hr, -⟩ | ⟨-, -, -, ⟨hsrc, hx⟩ |
      ⟨hsrc, ⟨hcounter, hx⟩ | ⟨hcounter, ⟨hsalt, hx⟩ | ⟨hsalt, ⟨hdst, hx⟩ | ⟨hdst, hx⟩⟩⟩⟩⟩⟩
    · simp [hcap] at h
    · simp [hcap.not_gt, hr] at h
    · simp [hcap.not_gt, hr] at h
    · simp [hcap.not_gt, hr] at h
    · exact ⟨_, hx, by simp [hsrc]⟩
    · exact ⟨_, hx, by simp [hcounter]⟩
    · exact ⟨_, hx, by simp [hsalt]⟩
    · exact ⟨_, hx, by simp [hdst]⟩
    · exact ⟨_, hx, by simp [hsrc, hcounter, hsalt, hdst, State.completedWindow, Window.complete]⟩

/-- Every command completes with its code, and leaves in the window what a completion leaves
(spec/60_exceptions.md R244, R250). -/
theorem exec_completedWindow (i : Instr) (s : State) :
    ∃ t, exec i s = .next t ∧ t.win = s.completedWindow i (completionCode s i) := by
  unfold completionCode
  by_cases h : precheck s i = .ok
  · rw [if_neg (not_not.mpr h)]
    exact exec_of_precheck_eq_ok h
  · rw [if_pos h]
    exact ⟨_, exec_of_precheck_ne_ok h, (s.completedWindow_of_ne_ok i h).symm⟩

/-- A rejection is a completion with ERR set. -/
theorem State.complete_of_ne_ok (s : State) {c : ErrCode} (h : c ≠ .ok) :
    s.complete c = { s with win := { s.win with busy := false, done := true, err := true, errcode := c } } := by
  rw [State.complete, Window.complete, decide_eq_true h]

/-- The engine's step on an illegal word (spec/60_exceptions.md R244, step 1). -/
theorem State.engineStep_of_illegal {s : State} {why : IllegalWord} (hbusy : s.win.busy = true)
    (hcmd : decode s.latch.cmd = .illegal why) : s.engineStep = .next (s.complete .badCmd) := by
  rw [State.engineStep, if_pos hbusy, hcmd]
  rfl

/-! ### What sets DONE -/

/-- No register write sets DONE (spec/60_exceptions.md R252). -/
theorem State.writeReg_done {s : State} (r : Option Reg) (v : Word32) (h : s.win.done = false) :
    (s.writeReg r v).win.done = false := by
  rcases r with _ | r
  · exact h
  cases r
  case cmd =>
    rw [State.writeReg, State.writeCmd]
    split
    · exact h
    · rfl
  case status => simp [State.writeReg, h]
  all_goals exact h

/-- No host step sets DONE (spec/60_exceptions.md R252). -/
theorem State.hostStep_done {s t : State} (hstep : s.hostStep = .next t) (h : s.win.done = false) :
    t.win.done = false := by
  rcases State.hostStep_cases hstep with ⟨m, n, hs, rfl, -⟩ | ⟨_, _, v, _, off, _, _, rfl⟩
  · exact h
  · exact State.writeReg_done (s := s.popOp) (Reg.at? off) v h

/-! ### The statements -/

/-- Settles O13. Only a completion sets DONE: the host's writes, an idle engine turn and reset do not; and no command
writes IRQ_EN. -/
theorem interruptFollowsDone : Obligations.InterruptFollowsDone := by
  refine ⟨?line, ?statusWrite, ?cmdWrite, ?ctrlWrite, ?source, ?complete, ?command, rfl⟩
  case line => exact fun s => Bool.and_eq_true_iff
  case statusWrite =>
    intro s v hv
    simp [State.irq, State.writeReg, hv]
  case cmdWrite =>
    intro s v hidle
    simp [State.irq, State.writeReg, State.writeCmd, hidle]
  case ctrlWrite =>
    intro s v hv
    rw [State.irq, State.writeReg, Window.writeCtrl_irqEn, hv, Bool.false_and]
  case source =>
    intro s t h hclear hset
    rcases step_cases h with
      ⟨-, hhost⟩ | ⟨-, -, rfl⟩ | ⟨hturn, hbusy, -⟩ | ⟨hturn, hbusy, -⟩ | ⟨-, rfl⟩
    · simp [State.hostStep_done hhost hclear] at hset
    · simp [hclear] at hset
    · exact ⟨hturn, hbusy⟩
    · exact ⟨hturn, hbusy⟩
    · exact absurd hset Bool.false_ne_true
  case complete => exact fun s c => Bool.and_true _
  case command =>
    intro i s
    obtain ⟨t, hx, hwin⟩ := exec_completedWindow i s
    exact ⟨t, hx, by simp [State.irq, hwin]⟩

/-- Settles O15. -/
theorem errorCodeFollowsTheCheckingOrder : Obligations.ErrorCodeFollowsTheCheckingOrder := by
  refine ⟨fun s why => State.engineStep_of_illegal, fun i s => ?_⟩
  obtain ⟨t, hx, hwin⟩ := exec_completedWindow i s
  exact ⟨t, hx, congrArg Window.errcode hwin⟩

/-- Settles O16. A rejection is `complete` with the code of the check, E_BAD_CMD for an illegal word. -/
theorem rejectedCommandChangesOnlyStatus : Obligations.RejectedCommandChangesOnlyStatus := by
  constructor
  · intro i s h
    exact ⟨_, exec_of_precheck_ne_ok h, s.complete_of_ne_ok h⟩
  · intro s why hbusy hcmd
    exact ⟨_, State.engineStep_of_illegal hbusy hcmd, s.complete_of_ne_ok (by decide)⟩

end Sys2Proof.Machine

/-! PROOFS. The family of spec/41_hash_engine.md, the engine's stream: Absorb and Finalize as folds of C over the bytes an
engine holds, and what an engine that was initialised holds after any way of feeding it. -/

namespace Sys2Proof.Machine

/-! ### The compression unit -/

/-- The rounds overwrite T1 and T2 before anything reads them. -/
theorem compressRounds_congr {ws ws' : Workspace} (hw : ws.w = ws'.w) (hregs : ws.regs = ws'.regs) :
    compressRounds ws = compressRounds ws' := by
  have hfirst : compressRound ws 0 = compressRound ws' 0 := by
    simp only [compressRound, hw, hregs]
  simp only [compressRounds, List.range_succ_eq_map (n := 79), List.foldl_cons, hfirst]

theorem compressWorkspace_eq (h : HashWords) (B : List Byte) (ws ws' : Workspace) :
    compressWorkspace h B ws = compressWorkspace h B ws' :=
  compressRounds_congr (expand_ingest_eq B ws.w ws'.w) rfl

theorem compress_eq_compressC (h : HashWords) (B : List Byte) (ws : Workspace) : compress h B ws = compressC h B := by
  rw [compressC, compress, compress, compressWorkspace_eq]

/-! ### Folding C over blocks -/

theorem foldBlocks_one (P : List Byte) (h : HashWords) : foldBlocks 1 P h = compressC h (P.take 128) := rfl

theorem foldBlocks_add (j k : Nat) (P : List Byte) (h : HashWords) :
    foldBlocks (j + k) P h = foldBlocks k (P.drop (128 * j)) (foldBlocks j P h) := by
  induction j generalizing P h with
  | zero => simp [foldBlocks]
  | succ j ih =>
    rw [Nat.succ_add, foldBlocks, ih, List.drop_drop, foldBlocks]
    congr 2
    omega

/-- Bytes beyond the blocks folded are not read. -/
theorem foldBlocks_append {k : Nat} {P : List Byte} (hk : 128 * k ≤ P.length) (Q : List Byte) (h : HashWords) :
    foldBlocks k (P ++ Q) h = foldBlocks k P h := by
  induction k generalizing P h with
  | zero => rfl
  | succ k ih =>
    rw [foldBlocks, foldBlocks, List.take_append_of_le_length (by omega), List.drop_append_of_le_length (by omega),
      ih (by simp; omega)]

theorem Lane.compressBlocks_h (k : Nat) (M : List Byte) (l : Lane) :
    (l.compressBlocks k M).eng.h = foldBlocks k M l.eng.h := by
  induction k generalizing M l with
  | zero => rfl
  | succ k ih => rw [Lane.compressBlocks, ih, Lane.compress_h, compress_eq_compressC, foldBlocks]

/-! ### The bytes buffered -/

@[simp] theorem Engine.buffered_length (x : Engine) : x.buffered.length = x.pos.toNat := by
  have hpos : x.pos.toNat < 128 := x.pos.isLt
  simp [Engine.buffered]
  omega

theorem Engine.buffered_of_pos_zero {x : Engine} (h : x.pos = 0) : x.buffered = [] := by
  simp [Engine.buffered, h]

/-- Bytes written at the end of the buffered ones, with POS moved past them, are buffered after them. -/
theorem Lane.buffered_bufWrite_setPos (l : Lane) {bs : List Byte} (h : l.eng.pos.toNat + bs.length < 128) :
    ((l.bufWrite l.eng.pos.toNat bs).setPos (l.eng.pos.toNat + bs.length)).eng.buffered = l.eng.buffered ++ bs := by
  have hpos : (BitVec.ofNat 7 (l.eng.pos.toNat + bs.length)).toNat = l.eng.pos.toNat + bs.length :=
    Nat.mod_eq_of_lt h
  simp only [Engine.buffered, Lane.setPos_pos, Lane.setPos_buf, Lane.bufWrite_buf, hpos]
  exact bufWrite_take _ _ _ (Nat.le_of_lt h)

/-- Two writes to BUF, the second where the first ends, are one. -/
theorem Lane.bufWrite_bufWrite (l : Lane) {p : Nat} {as bs : List Byte} (h : p + as.length + bs.length ≤ 128) :
    (l.bufWrite p as).bufWrite (p + as.length) bs = l.bufWrite p (as ++ bs) := by
  have hbuf : Machine.bufWrite (Machine.bufWrite l.eng.buf p as) (p + as.length) bs =
      Machine.bufWrite l.eng.buf p (as ++ bs) := by
    apply Vector.toList_inj.mp
    rw [bufWrite_toList, bufWrite_take _ _ _ (by omega), bufWrite_toList, bufWrite_toList,
      List.take_of_length_le (l := bs) (by omega), List.take_of_length_le (l := as) (by omega),
      List.take_of_length_le (l := as ++ bs) (by simp; omega), List.drop_append, List.drop_of_length_le (by simp; omega),
      List.drop_drop]
    simp
    omega
  simp only [Lane.bufWrite, hbuf]

/-- Bytes that fill BUF from POS on make a block of the buffered ones and themselves. -/
theorem Lane.bufWrite_full (l : Lane) {bs : List Byte} (h : l.eng.pos.toNat + bs.length = 128) :
    (l.bufWrite l.eng.pos.toNat bs).eng.buf.toList = l.eng.buffered ++ bs := by
  have hfull := bufWrite_take l.eng.buf l.eng.pos.toNat bs (Nat.le_of_eq h)
  rwa [h, List.take_of_length_le (by simp)] at hfull

/-! ### Absorb -/

/-- What the block loop of Absorb leaves. -/
theorem Lane.absorbBlocks_spec (M : List Byte) (l : Lane) :
    (l.absorbBlocks M).1.eng.h = foldBlocks (M.length / 128) M l.eng.h ∧
      (l.absorbBlocks M).1.eng.pos = l.eng.pos ∧ (l.absorbBlocks M).1.eng.size = l.eng.size ∧
      (l.absorbBlocks M).1.count = l.count + M.length / 128 ∧
      (l.absorbBlocks M).2 = M.drop (128 * (M.length / 128)) := by
  obtain ⟨heng, hcount⟩ := l.compressBlocks_frame (M.length / 128) M
  have hpos := congrArg Engine.pos heng
  have hsize := congrArg Engine.size heng
  exact ⟨l.compressBlocks_h _ M, hpos, hsize, hcount, rfl⟩

/-- The bytes an engine has buffered and those it is given: the stream Absorb consumes (spec/41_hash_engine.md R157). -/
def Engine.stream (x : Engine) (M : List Byte) : List Byte := x.buffered ++ M

/-- The whole blocks of that stream. -/
def Engine.streamBlocks (x : Engine) (M : List Byte) : Nat := (x.pos.toNat + M.length) / 128

/-- Absorb up to the buffering of the rest: the whole blocks of the stream are folded, and the bytes buffered with those
that are left are the rest of it (spec/41_hash_engine.md R157). -/
structure Lane.HeadSpec (M : List Byte) (l l' : Lane) (R : List Byte) : Prop where
  h      : l'.eng.h = foldBlocks (l.eng.streamBlocks M) (l.eng.stream M) l.eng.h
  rest   : l'.eng.buffered ++ R = (l.eng.stream M).drop (128 * l.eng.streamBlocks M)
  fits   : l'.eng.pos.toNat + R.length < 128
  size   : l'.eng.size = l.eng.size
  count  : l'.count = l.count + l.eng.streamBlocks M

/-- An empty buffer: the blocks are those of M itself. -/
theorem Lane.absorbHead_spec_of_empty (M : List Byte) {l : Lane} (hpos : l.eng.pos = 0) :
    l.HeadSpec M (l.absorbHead M).1 (l.absorbHead M).2 := by
  obtain ⟨hh, hpos', hsize, hcount, hrest⟩ := l.absorbBlocks_spec M
  have hhead : l.absorbHead M = l.absorbBlocks M := if_pos (by rw [hpos]; rfl)
  have hstream : l.eng.stream M = M := by rw [Engine.stream, Engine.buffered_of_pos_zero hpos, List.nil_append]
  have hblocks : l.eng.streamBlocks M = M.length / 128 := by simp [Engine.streamBlocks, hpos]
  rw [hhead]
  refine ⟨by rw [hh, hstream, hblocks], ?_, ?_, hsize, by rw [hcount, hblocks]⟩
  · rw [hrest, hstream, hblocks, Engine.buffered_of_pos_zero (hpos'.trans hpos), List.nil_append]
  · rw [hrest, List.length_drop, hpos', hpos, BitVec.ofNat_eq_ofNat, BitVec.toNat_ofNat, Nat.zero_mod]
    omega

/-- M completes the buffered block, and the blocks of what is left of it follow. -/
theorem Lane.absorbHead_spec_of_full {M : List Byte} {l : Lane} (hpos : l.eng.pos.toNat ≠ 0)
    (hfull : 128 ≤ l.eng.pos.toNat + M.length) : l.HeadSpec M (l.absorbHead M).1 (l.absorbHead M).2 := by
  have hlt : l.eng.pos.toNat < 128 := l.eng.pos.isLt
  obtain ⟨k, hk⟩ : ∃ k, k = 128 - l.eng.pos.toNat := ⟨_, rfl⟩
  obtain ⟨filled, hfilled⟩ : ∃ f, f = l.bufWrite l.eng.pos.toNat (M.take k) := ⟨_, rfl⟩
  have hhead : l.absorbHead M = ((filled.compress filled.eng.buf.toList).setPos 0).absorbBlocks (M.drop k) := by
    have hmin : min (128 - l.eng.pos.toNat) M.length = k := by omega
    rw [Lane.absorbHead, if_neg hpos]
    simp only [hmin, ← hfilled]
    exact if_pos (by omega)
  obtain ⟨hh, hpos', hsize, hcount, hrest⟩ := ((filled.compress filled.eng.buf.toList).setPos 0).absorbBlocks_spec (M.drop k)
  have hblock : filled.eng.buf.toList = l.eng.buffered ++ M.take k := by
    rw [hfilled]
    exact l.bufWrite_full (by rw [List.length_take]; omega)
  have hblocks : l.eng.streamBlocks M = 1 + (M.drop k).length / 128 := by
    rw [Engine.streamBlocks, List.length_drop]
    omega
  have htake : (l.eng.stream M).take 128 = filled.eng.buf.toList := by
    rw [hblock, Engine.stream, List.take_append, Engine.buffered_length,
      List.take_of_length_le (by rw [Engine.buffered_length]; omega), hk]
  have hdrop : (l.eng.stream M).drop 128 = M.drop k := by
    rw [Engine.stream, List.drop_append, Engine.buffered_length,
      List.drop_of_length_le (by rw [Engine.buffered_length]; omega), List.nil_append, hk]
  rw [hhead]
  refine ⟨?_, ?_, ?_, ?_, ?_⟩
  · rw [hh, hblocks, foldBlocks_add, foldBlocks_one, htake, Nat.mul_one, hdrop]
    simp only [Lane.setPos_h, Lane.compress_h, compress_eq_compressC, hfilled, Lane.bufWrite_h]
  · rw [hrest, hblocks, Nat.mul_add, ← List.drop_drop, Nat.mul_one, hdrop, Engine.buffered_of_pos_zero hpos',
      List.nil_append]
  · rw [hrest, List.length_drop, hpos', Lane.setPos_pos, BitVec.toNat_ofNat, Nat.zero_mod]
    omega
  · rw [hsize, hfilled]
    rfl
  · rw [hcount, hblocks, Lane.setPos_count, Lane.compress_count, hfilled, Lane.bufWrite_count, Nat.add_assoc]

/-- M fits in the buffer. -/
theorem Lane.absorbHead_spec_of_fits {M : List Byte} {l : Lane} (hpos : l.eng.pos.toNat ≠ 0)
    (hfits : l.eng.pos.toNat + M.length < 128) : l.HeadSpec M (l.absorbHead M).1 (l.absorbHead M).2 := by
  have hhead : l.absorbHead M = ((l.bufWrite l.eng.pos.toNat M).setPos (l.eng.pos.toNat + M.length), []) := by
    have hmin : min (128 - l.eng.pos.toNat) M.length = M.length := by omega
    rw [Lane.absorbHead, if_neg hpos]
    simp only [hmin, List.take_length, List.drop_length]
    exact if_neg (by omega)
  have hblocks : l.eng.streamBlocks M = 0 := Nat.div_eq_of_lt hfits
  rw [hhead]
  refine ⟨by rw [hblocks]; rfl, ?_, ?_, rfl, by rw [hblocks]; rfl⟩
  · rw [hblocks, Lane.buffered_bufWrite_setPos _ hfits, List.append_nil, Nat.mul_zero, List.drop_zero, Engine.stream]
  · rw [Lane.setPos_pos, BitVec.toNat_ofNat, List.length_nil]
    omega

theorem Lane.absorbHead_spec (M : List Byte) (l : Lane) : l.HeadSpec M (l.absorbHead M).1 (l.absorbHead M).2 := by
  by_cases hpos : l.eng.pos.toNat = 0
  · exact l.absorbHead_spec_of_empty M (BitVec.eq_of_toNat_eq hpos)
  by_cases hfull : 128 ≤ l.eng.pos.toNat + M.length
  · exact l.absorbHead_spec_of_full hpos hfull
  · exact l.absorbHead_spec_of_fits hpos (Nat.lt_of_not_le hfull)

/-- What Absorb leaves of an engine (spec/41_hash_engine.md R157). -/
structure Lane.AbsorbSpec (M : List Byte) (l l' : Lane) : Prop where
  h        : l'.eng.h = foldBlocks (l.eng.streamBlocks M) (l.eng.stream M) l.eng.h
  buffered : l'.eng.buffered = (l.eng.stream M).drop (128 * l.eng.streamBlocks M)
  size     : l'.eng.size = l.eng.size + BitVec.ofNat 128 M.length
  fsm      : l'.eng.fsm = .absorbing
  count    : l'.count = l.count + l.eng.streamBlocks M

theorem Lane.absorb_spec (M : List Byte) (l : Lane) : l.AbsorbSpec M (l.absorb M) := by
  obtain ⟨hh, hrest, hfits, hsize, hcount⟩ := l.absorbHead_spec M
  rw [Lane.absorb]
  generalize l.absorbHead M = head at hh hrest hfits hsize hcount
  refine ⟨hh, ?_, ?_, rfl, hcount⟩
  · rw [← hrest]
    exact Lane.buffered_bufWrite_setPos _ hfits
  · rw [← hsize]
    rfl

theorem Lane.absorb_pos (M : List Byte) (l : Lane) :
    (l.absorb M).eng.pos.toNat = (l.eng.pos.toNat + M.length) % 128 := by
  rw [← Engine.buffered_length, (l.absorb_spec M).buffered, List.length_drop, Engine.stream, List.length_append,
    Engine.buffered_length, Engine.streamBlocks]
  omega

/-! ### Finalize -/

/-- The blocks Finalize compresses (spec/41_hash_engine.md R158). -/
def Engine.finalBlocks (x : Engine) : Nat := if x.pos.toNat ≤ 111 then 1 else 2

/-- The bytes of these blocks: those buffered, the marker, the zero fill and the bit length
(spec/41_hash_engine.md R158). -/
def Engine.finalStream (x : Engine) : List Byte :=
  x.buffered ++ [0x80] ++ List.replicate (x.finalBlocks * 128 - 17 - x.pos.toNat) 0 ++
    beBytes 16 (BitVec.ofNat 128 (x.size.toNat * 8))

theorem Engine.finalStream_length (x : Engine) : x.finalStream.length = x.finalBlocks * 128 := by
  have hpos : x.pos.toNat < 128 := x.pos.isLt
  simp only [Engine.finalStream, List.length_append, Engine.buffered_length, List.length_cons, List.length_nil,
    List.length_replicate, beBytes_length, Engine.finalBlocks]
  split <;> omega

/-- Where the length fits after the marker, the marker is buffered. -/
theorem Lane.finalizeHead_of_le {l : Lane} (h : l.eng.pos.toNat ≤ 111) :
    l.finalizeHead = (l.bufWrite l.eng.pos.toNat [0x80]).setPos (l.eng.pos.toNat + 1) :=
  if_neg (by omega)

/-- Where it does not, the marker and zeros make a first block. -/
theorem Lane.finalizeHead_of_gt {l : Lane} (h : 111 < l.eng.pos.toNat) :
    l.finalizeHead.eng.h =
        compressC l.eng.h (l.eng.buffered ++ ([0x80] ++ List.replicate (127 - l.eng.pos.toNat) 0)) ∧
      l.finalizeHead.eng.pos = 0 ∧ l.finalizeHead.eng.size = l.eng.size ∧ l.finalizeHead.count = l.count + 1 := by
  have hlt : l.eng.pos.toNat < 128 := l.eng.pos.isLt
  have hzeros : 128 - (l.eng.pos.toNat + 1) = 127 - l.eng.pos.toNat := by omega
  have hjoin := l.bufWrite_bufWrite (p := l.eng.pos.toNat) (as := [0x80])
    (bs := List.replicate (127 - l.eng.pos.toNat) 0) (by simp; omega)
  rw [List.length_singleton] at hjoin
  unfold Lane.finalizeHead
  rw [if_pos (by omega), hzeros, hjoin]
  dsimp only
  rw [l.bufWrite_full (by simp; omega)]
  exact ⟨compress_eq_compressC _ _ _, rfl, rfl, rfl⟩

/-- The last block: what is buffered, the zero fill to 111 and the bit length. -/
theorem Lane.finalizeTail_h {l : Lane} (hpos : l.eng.pos.toNat ≤ 112) :
    l.finalizeTail.eng.h = compressC l.eng.h (l.eng.buffered ++ (List.replicate (112 - l.eng.pos.toNat) 0 ++
      beBytes 16 (BitVec.ofNat 128 (l.eng.size.toNat * 8)))) := by
  have hjoin := l.bufWrite_bufWrite (p := l.eng.pos.toNat) (as := List.replicate (112 - l.eng.pos.toNat) 0)
    (bs := beBytes 16 (BitVec.ofNat 128 (l.eng.size.toNat * 8))) (by simp [beBytes_length]; omega)
  have hend : l.eng.pos.toNat + (List.replicate (112 - l.eng.pos.toNat) (0 : Byte)).length = 112 := by
    rw [List.length_replicate]
    omega
  rw [hend] at hjoin
  unfold Lane.finalizeTail
  simp only [hjoin]
  rw [l.bufWrite_full (by simp [beBytes_length]; omega)]
  exact compress_eq_compressC _ _ _

/-- What Finalize leaves of an engine (spec/41_hash_engine.md R158). -/
structure Lane.FinalizeSpec (l l' : Lane) : Prop where
  h     : l'.eng.h = foldBlocks l.eng.finalBlocks l.eng.finalStream l.eng.h
  pos   : l'.eng.pos = 0
  fsm   : l'.eng.fsm = .finalized
  size  : l'.eng.size = l.eng.size
  count : l'.count = l.count + l.eng.finalBlocks

theorem Lane.finalize_spec (l : Lane) : l.FinalizeSpec l.finalize := by
  have hlt : l.eng.pos.toNat < 128 := l.eng.pos.isLt
  have hlen := l.eng.finalStream_length
  rw [Lane.finalize]
  by_cases hone : l.eng.pos.toNat ≤ 111
  · have hblocks : l.eng.finalBlocks = 1 := if_pos hone
    have hpos : (BitVec.ofNat 7 (l.eng.pos.toNat + 1)).toNat = l.eng.pos.toNat + 1 := Nat.mod_eq_of_lt (by omega)
    have hmarked : ((l.bufWrite l.eng.pos.toNat [0x80]).setPos (l.eng.pos.toNat + 1)).eng.buffered =
        l.eng.buffered ++ [0x80] := l.buffered_bufWrite_setPos (bs := [0x80]) (by simp; omega)
    have hzeros : 1 * 128 - 17 - l.eng.pos.toNat = 112 - (l.eng.pos.toNat + 1) := by omega
    rw [Lane.finalizeHead_of_le hone]
    refine ⟨?_, rfl, rfl, rfl, by rw [hblocks]; rfl⟩
    rw [Lane.finalizeTail_h (by rw [Lane.setPos_pos, hpos]; omega), hblocks, foldBlocks_one,
      List.take_of_length_le (by omega), Engine.finalStream, hblocks, hmarked, Lane.setPos_pos, hpos, hzeros,
      List.append_assoc _ _ (beBytes _ _)]
    rfl
  · have hblocks : l.eng.finalBlocks = 2 := if_neg hone
    obtain ⟨hh, hpos, hsize, hcount⟩ := Lane.finalizeHead_of_gt (Nat.lt_of_not_le hone)
    have hzeros : 2 * 128 - 17 - l.eng.pos.toNat = (127 - l.eng.pos.toNat) + 112 := by omega
    have hstream : l.eng.finalStream = (l.eng.buffered ++ ([0x80] ++ List.replicate (127 - l.eng.pos.toNat) 0)) ++
        (List.replicate 112 0 ++ beBytes 16 (BitVec.ofNat 128 (l.eng.size.toNat * 8))) := by
      rw [Engine.finalStream, hblocks, hzeros, List.replicate_add]
      simp only [List.append_assoc]
    have hfirst : (l.eng.buffered ++ ([0x80] ++ List.replicate (127 - l.eng.pos.toNat) 0)).length = 128 := by
      simp
      omega
    generalize l.finalizeHead = head at hh hpos hsize hcount
    refine ⟨?_, rfl, rfl, hsize, by rw [hblocks]; exact congrArg (· + 1) hcount⟩
    rw [Lane.finalizeTail_h (by simp [hpos]), hblocks, foldBlocks_add 1 1, foldBlocks_one, foldBlocks_one,
      hstream, List.take_left' hfirst, Nat.mul_one, List.drop_left' hfirst,
      List.take_of_length_le (by simp [beBytes_length]), Engine.buffered_of_pos_zero hpos, hh, hsize, hpos]
    rfl

/-! ### An engine that was fed a message -/

/-- An engine holds the message it absorbed since EngineInit: the whole blocks folded into H, the rest buffered, and the
length in SIZE (spec/41_hash_engine.md R165, R166). -/
structure Engine.Holds (M : List Byte) (x : Engine) : Prop where
  h        : x.h = foldBlocks (M.length / 128) M iv
  buffered : x.buffered = M.drop (128 * (M.length / 128))
  size     : x.size = BitVec.ofNat 128 M.length

theorem Engine.Holds.pos {M : List Byte} {x : Engine} (hx : x.Holds M) : x.pos.toNat = M.length % 128 := by
  rw [← Engine.buffered_length, hx.buffered, List.length_drop]
  omega

theorem Lane.init_holds (l : Lane) : l.init.eng.Holds [] :=
  ⟨rfl, Engine.buffered_of_pos_zero rfl, rfl⟩

/-- A message fed to an engine goes after the one it holds. -/
theorem Engine.Holds.absorb {M : List Byte} {l : Lane} (hl : l.eng.Holds M) (N : List Byte) :
    (l.absorb N).eng.Holds (M ++ N) := by
  have hspec := l.absorb_spec N
  have hle : 128 * (M.length / 128) ≤ M.length := Nat.mul_div_le _ _
  have hstream : l.eng.stream N = (M ++ N).drop (128 * (M.length / 128)) := by
    rw [Engine.stream, hl.buffered, List.drop_append_of_le_length hle]
  have hblocks : (M ++ N).length / 128 = M.length / 128 + l.eng.streamBlocks N := by
    rw [Engine.streamBlocks, hl.pos, List.length_append]
    omega
  refine ⟨?_, ?_, ?_⟩
  · rw [hspec.h, hstream, hl.h, hblocks, foldBlocks_add, foldBlocks_append hle]
  · rw [hspec.buffered, hstream, List.drop_drop, hblocks, Nat.mul_add]
  · rw [hspec.size, hl.size, List.length_append, BitVec.ofNat_add]

theorem Engine.Holds.absorb_pieces {M : List Byte} {l : Lane} (hl : l.eng.Holds M) (Ms : List (List Byte)) :
    (Ms.foldl (fun l M => l.absorb M) l).eng.Holds (M ++ Ms.flatten) := by
  induction Ms generalizing M l with
  | nil => simpa using hl
  | cons N Ms ih => simpa using ih (hl.absorb N)

/-- The number of zeros of the padding fills the last block (spec/41_hash_engine.md R165). -/
theorem zeroFill_eq (n : Nat) : zeroFill n = (if n % 128 ≤ 111 then 1 else 2) * 128 - 17 - n % 128 := by
  unfold zeroFill
  split <;> omega

/-- The blocks Finalize adds to a message held are those of the padded message, so that the digest is the message's
(spec/41_hash_engine.md R165, R166). -/
theorem Engine.Holds.finalize {M : List Byte} {l : Lane} (hl : l.eng.Holds M) (hM : M.length ≤ 2 ^ 125 - 1) :
    digest l.finalize.eng.h = sha512 M := by
  have hle : 128 * (M.length / 128) ≤ M.length := Nat.mul_div_le _ _
  have hsize : l.eng.size.toNat * 8 = 8 * M.length := by
    rw [hl.size, BitVec.toNat_ofNat, Nat.mod_eq_of_lt (by omega), Nat.mul_comm]
  have hstream : l.eng.finalStream = (M ++ padding M.length).drop (128 * (M.length / 128)) := by
    rw [Engine.finalStream, Engine.finalBlocks, hl.buffered, hl.pos, hsize, List.drop_append_of_le_length hle, padding,
      zeroFill_eq]
    simp only [List.append_assoc, List.cons_append, List.nil_append]
  have hlen := congrArg List.length hstream
  rw [Engine.finalStream_length, List.length_drop] at hlen
  have hblocks : (M ++ padding M.length).length / 128 = M.length / 128 + l.eng.finalBlocks := by
    have hpos : 0 < l.eng.finalBlocks := by
      unfold Engine.finalBlocks
      split <;> decide
    omega
  rw [sha512, hblocks, foldBlocks_add, foldBlocks_append hle, ← hl.h, ← hstream, l.finalize_spec.h]

theorem Lane.digest_oneshot (l : Lane) {M : List Byte} (hM : M.length ≤ 2 ^ 125 - 1) :
    digest (l.oneshot M).eng.h = sha512 M :=
  (l.init_holds.absorb M).finalize hM

/-- A message fed to an engine with an empty buffer and finalized takes the compressions of its padded hash
(spec/41_hash_engine.md R168). -/
theorem Lane.count_absorb_finalize {l : Lane} (hpos : l.eng.pos = 0) (M : List Byte) :
    (l.absorb M).finalize.count = l.count + hashWork M.length := by
  rw [(l.absorb M).finalize_spec.count, (l.absorb_spec M).count, Engine.finalBlocks, l.absorb_pos, Engine.streamBlocks,
    hpos, hashWork, Nat.add_assoc]
  simp

/-! ### The statements -/

/-- Settles O29. -/
theorem compressDependsOnHAndBlockOnly : Obligations.CompressDependsOnHAndBlockOnly := by
  refine ⟨fun h B ws ws' => ⟨?_, compressWorkspace_eq h B ws ws'⟩, fun l B => ⟨_, rfl, ?_⟩⟩
  · rw [compress_eq_compressC, compress_eq_compressC]
  · exact compress_eq_compressC _ _ _

/-- Settles O30. -/
theorem absorbConsumesTheStream : Obligations.AbsorbConsumesTheStream := by
  intro l M
  obtain ⟨hh, hbuffered, hsize, hfsm, hcount⟩ := l.absorb_spec M
  exact ⟨hh, hbuffered, l.absorb_pos M, hsize, hfsm, hcount⟩

/-- Settles O31. -/
theorem finalizePadsTheStream : Obligations.FinalizePadsTheStream := by
  intro l hsize
  obtain ⟨hh, hpos, hfsm, hsize', hcount⟩ := l.finalize_spec
  exact ⟨Nat.mod_eq_of_lt (by omega), l.eng.finalStream_length, hh, hpos, hfsm, hsize', hcount⟩

/-- Settles O35. Every piece goes after the bytes held, so that the engine finalized holds the whole message. -/
theorem anyChunkingHashesTheMessage : Obligations.AnyChunkingHashesTheMessage := by
  intro l Ms hlen
  exact (l.init_holds.absorb_pieces Ms).finalize hlen

/-- Settles O36. The blocks of the first stream and those of what it leaves with the second input are the blocks of the
joined stream. -/
theorem splitUpdatesAreInvisible : Obligations.SplitUpdatesAreInvisible := by
  intro l M₁ M₂
  have hfirst := l.absorb_spec M₁
  have hsecond := (l.absorb M₁).absorb_spec M₂
  have hjoined := l.absorb_spec (M₁ ++ M₂)
  have hassoc : l.eng.stream (M₁ ++ M₂) = l.eng.stream M₁ ++ M₂ := (List.append_assoc _ _ _).symm
  have hle : 128 * l.eng.streamBlocks M₁ ≤ (l.eng.stream M₁).length := by
    rw [Engine.stream, List.length_append, Engine.buffered_length, Engine.streamBlocks]
    omega
  have hstream : (l.absorb M₁).eng.stream M₂ = (l.eng.stream (M₁ ++ M₂)).drop (128 * l.eng.streamBlocks M₁) := by
    rw [Engine.stream, hfirst.buffered, ← List.drop_append_of_le_length hle, hassoc]
  have hblocks : l.eng.streamBlocks (M₁ ++ M₂) = l.eng.streamBlocks M₁ + (l.absorb M₁).eng.streamBlocks M₂ := by
    simp only [Engine.streamBlocks, l.absorb_pos, List.length_append]
    omega
  refine ⟨?_, BitVec.eq_of_toNat_eq ?_, ?_, ?_, hsecond.fsm.trans hjoined.fsm.symm, ?_⟩
  · rw [hsecond.h, hjoined.h, hstream, hfirst.h, hblocks, foldBlocks_add, hassoc, foldBlocks_append hle]
  · simp only [Lane.absorb_pos, List.length_append]
    omega
  · rw [hsecond.size, hfirst.size, hjoined.size, List.length_append, BitVec.ofNat_add, BitVec.add_assoc]
  · rw [hsecond.buffered, hjoined.buffered, hstream, List.drop_drop, hblocks, Nat.mul_add]
  · rw [hsecond.count, hfirst.count, hjoined.count, hblocks, Nat.add_assoc]

end Sys2Proof.Machine

/-! PROOFS. Every command as an effect: the code it completes with, the data path it leaves, the writes it makes and the
free values it draws, as a function of the latch, the platform, the data path and the bytes it reads. What the statements
on commands say follows from this one equation, `exec_eq_effect`. -/

namespace Sys2Proof.Machine

/-! ### What a command does -/

/-- The commands that read (L_SRC_ADDR, L_SRC_LEN) (spec/20_memory.md R69). -/
def readsSource : Instr → Bool
  | .hashUpdate _ | .hashOneshot _ | .macInit | .macCompute | .deriveKey => true
  | .hashInit _ | .hashFinalize _ | .macClone => false

/-- The commands that write (L_DST_ADDR, 64) (spec/20_memory.md R69). -/
def writesOutput : Instr → Bool
  | .hashFinalize _ | .hashOneshot _ | .macCompute | .deriveKey => true
  | .hashInit _ | .hashUpdate _ | .macInit | .macClone => false

/-- The data path a command computes from the bytes it reads, before a builder sets CTX_VALID. -/
def commandDatapath (i : Instr) (src salt : List Byte) (iter : Nat) (d : Datapath) : Datapath :=
  match i with
  | .hashInit e     => d.onEngine e Lane.init
  | .hashUpdate e   => d.onEngine e (Lane.absorb src)
  | .hashFinalize e => d.onEngine e Lane.finalize
  | .hashOneshot e  => d.onEngine e (Lane.oneshot src)
  | .macInit        => d.buildContext src
  | .macClone       => (d.clone d.ctxI .e0).clone d.ctxO .e1
  | .macCompute     => d.macTag src
  | .deriveKey      => (d.buildContext src).stretch salt iter

/-- CTX_VALID is set by the two builders (spec/10_state.md R39). -/
def finishedDatapath (i : Instr) (d : Datapath) : Datapath :=
  if buildsContext i then d.validate else d

/-- The bytes a command writes to DST. -/
def outputBytes (i : Instr) (d : Datapath) : Vector Byte 64 :=
  match i with
  | .hashFinalize e | .hashOneshot e => d.digest e
  | .macCompute => d.digest .e1
  | .deriveKey => d.scratch.acc
  | .hashInit _ | .hashUpdate _ | .macInit | .macClone => Vector.replicate 64 0

/-- The data path an E_BUS abort leaves, drawn from number k on (spec/60_exceptions.md R247). -/
def abortedDatapath (i : Instr) (k : Nat) (d : Datapath) : Datapath :=
  match i with
  | .hashInit e | .hashUpdate e | .hashFinalize e | .hashOneshot e =>
    (d.setEngine e (drawnEngine k)).dropScratch k
  | .macClone | .macCompute =>
    ({ d with e0 := drawnEngine k, e1 := drawnEngine (k + 1) } : Datapath).dropScratch k
  | .macInit | .deriveKey =>
    ({ d with e0 := drawnEngine k, e1 := drawnEngine (k + 1), ctxI := drawnSnapshot (k + 2),
              ctxO := drawnSnapshot (k + 3), ctxValid := false } : Datapath).dropScratch k

/-- The numbers an E_BUS abort uses up. -/
def abortDraws : Instr → Nat
  | .hashInit _ | .hashUpdate _ | .hashFinalize _ | .hashOneshot _ => 1
  | .macClone | .macCompute => 2
  | .macInit | .deriveKey => 4

/-- What a command does: its code, the data path and the next free number it leaves, and its writes to data memory in
order, each an address and the bytes from there on. -/
structure Effect where
  code   : ErrCode
  dp     : Datapath
  draws  : Nat
  writes : List (Nat × List Byte)

/-- The effect of an E_BUS abort after some writes. -/
def Effect.abort (i : Instr) (k : Nat) (d : Datapath) (writes : List (Nat × List Byte)) : Effect :=
  { code := .bus, dp := abortedDatapath i k d, draws := k + abortDraws i, writes := writes }

/-- The write of the counter, which DERIVE_KEY makes before it reads the salt (spec/43_key_stretcher.md R223). -/
def counterWrite (l : Latch) (i : Instr) : List (Nat × List Byte) :=
  if i = .deriveKey then [(l.counter.base, counterBytes)] else []

/-- The write of DST, from the data path computed. -/
def outputWrite (l : Latch) (i : Instr) (d : Datapath) : List (Nat × List Byte) :=
  if writesOutput i then [(l.dst.base, (outputBytes i d).toList)] else []

/-- A region's bytes drawn from number k on, as a write. -/
def drawnWrite (r : Region) (k : Nat) : Nat × List Byte := (r.base, drawnBytes k r.size)

/-- The effect of a command that passes its checks, in the order of its accesses: the source, the counter, the salt, the
destination. -/
def accessEffect (i : Instr) (l : Latch) (p : Platform) (k : Nat) (d : Datapath) (src salt : List Byte) : Effect :=
  if readsSource i = true ∧ p.admitsRegion l.src = false then .abort i k d []
  else if i = .deriveKey ∧ p.admitsRegion l.counter = false then
    .abort i (k + l.counter.size) (d.buildContext src) [drawnWrite l.counter k]
  else if i = .deriveKey ∧ p.admitsRegion l.salt = false then
    .abort i k (d.buildContext src) (counterWrite l i)
  else if writesOutput i = true ∧ p.admitsRegion l.dst = false then
    .abort i (k + l.dst.size) (commandDatapath i src salt l.iter.toNat d) (counterWrite l i ++ [drawnWrite l.dst k])
  else
    { code := .ok, dp := finishedDatapath i (commandDatapath i src salt l.iter.toNat d), draws := k
      writes := counterWrite l i ++ outputWrite l i (commandDatapath i src salt l.iter.toNat d) }

/-- The effect of a command: a rejection changes nothing (spec/60_exceptions.md R246). -/
def State.effect (s : State) (i : Instr) : Effect :=
  if precheck s i = .ok then
    accessEffect i s.latch s.plat s.draws s.dp (s.bytesAt s.latch.src) s.framedSalt
  else { code := precheck s i, dp := s.dp, draws := s.draws, writes := [] }

/-- Writes made in order. -/
def Memory.writeAll (m : Memory) (ws : List (Nat × List Byte)) : Memory :=
  ws.foldl (fun m w => m.writeBytes w.1 w.2) m

/-- The state an effect leaves. -/
def State.after (s : State) (i : Instr) (x : Effect) : State :=
  { s with win := s.completedWindow i x.code, dp := x.dp, mem := s.mem.writeAll x.writes, draws := x.draws }

section After
variable (s : State) (i : Instr) (x : Effect)

@[simp] theorem State.after_win : (s.after i x).win = s.completedWindow i x.code := rfl
@[simp] theorem State.after_latch : (s.after i x).latch = s.latch := rfl
@[simp] theorem State.after_dp : (s.after i x).dp = x.dp := rfl
@[simp] theorem State.after_mem : (s.after i x).mem = s.mem.writeAll x.writes := rfl
@[simp] theorem State.after_plat : (s.after i x).plat = s.plat := rfl
@[simp] theorem State.after_host : (s.after i x).host = s.host := rfl
@[simp] theorem State.after_draws : (s.after i x).draws = x.draws := rfl

end After

/-! ### Writes made in order -/

@[simp] theorem Memory.writeAll_nil (m : Memory) : m.writeAll [] = m := rfl

@[simp] theorem Memory.writeAll_cons (m : Memory) (w : Nat × List Byte) (ws : List (Nat × List Byte)) :
    m.writeAll (w :: ws) = (m.writeBytes w.1 w.2).writeAll ws := rfl

theorem Memory.writeAll_append (m : Memory) (ws ws' : List (Nat × List Byte)) :
    m.writeAll (ws ++ ws') = (m.writeAll ws).writeAll ws' := List.foldl_append

theorem State.drawRegion_eq (s : State) (r : Region) :
    s.drawRegion r = { s with mem := s.mem.writeAll [drawnWrite r s.draws], draws := s.draws + r.size } := by
  simp only [State.drawRegion, Memory.writeAll_cons, Memory.writeAll_nil, drawnWrite]

/-! ### The branches of an effect -/

section Branches
variable {i : Instr} {l : Latch} {p : Platform} {k : Nat} {d : Datapath} {src salt : List Byte}

theorem accessEffect_of_source (hi : readsSource i = true) (hsrc : p.admitsRegion l.src = false) :
    accessEffect i l p k d src salt = .abort i k d [] := if_pos ⟨hi, hsrc⟩

/-- DERIVE_KEY's counter is not admitted. -/
theorem accessEffect_of_counter (hsrc : p.admitsRegion l.src = true) (hcounter : p.admitsRegion l.counter = false) :
    accessEffect .deriveKey l p k d src salt =
      .abort .deriveKey (k + l.counter.size) (d.buildContext src) [drawnWrite l.counter k] := by
  rw [accessEffect, if_neg (by simp [hsrc]), if_pos ⟨rfl, hcounter⟩]

/-- DERIVE_KEY's salt is not admitted, and its counter is. -/
theorem accessEffect_of_salt (hsrc : p.admitsRegion l.src = true) (hcounter : p.admitsRegion l.counter = true)
    (hsalt : p.admitsRegion l.salt = false) :
    accessEffect .deriveKey l p k d src salt =
      .abort .deriveKey k (d.buildContext src) (counterWrite l .deriveKey) := by
  rw [accessEffect, if_neg (by simp [hsrc]), if_neg (by simp [hcounter]), if_pos ⟨rfl, hsalt⟩]

/-- What a command reads, and the counter it writes first, are admitted (spec/20_memory.md R69). -/
structure InputsAdmitted (i : Instr) (l : Latch) (p : Platform) : Prop where
  source  : readsSource i = true → p.admitsRegion l.src = true
  counter : i = .deriveKey → p.admitsRegion l.counter = true
  salt    : i = .deriveKey → p.admitsRegion l.salt = true

theorem InputsAdmitted.of_no_source (hi : readsSource i = false) : InputsAdmitted i l p where
  source := fun h => by simp [hi] at h
  counter := by rintro rfl; cases hi
  salt := by rintro rfl; cases hi

theorem InputsAdmitted.of_source (hi : i ≠ .deriveKey) (hsrc : p.admitsRegion l.src = true) :
    InputsAdmitted i l p where
  source := fun _ => hsrc
  counter := fun h => absurd h hi
  salt := fun h => absurd h hi

theorem InputsAdmitted.of_all (hsrc : p.admitsRegion l.src = true) (hcounter : p.admitsRegion l.counter = true)
    (hsalt : p.admitsRegion l.salt = true) : InputsAdmitted i l p :=
  ⟨fun _ => hsrc, fun _ => hcounter, fun _ => hsalt⟩

theorem accessEffect_of_output (hin : InputsAdmitted i l p) (hi : writesOutput i = true)
    (hdst : p.admitsRegion l.dst = false) :
    accessEffect i l p k d src salt =
      .abort i (k + l.dst.size) (commandDatapath i src salt l.iter.toNat d)
        (counterWrite l i ++ [drawnWrite l.dst k]) := by
  rw [accessEffect, if_neg (fun h => by simp [hin.source h.1] at h), if_neg (fun h => by simp [hin.counter h.1] at h),
    if_neg (fun h => by simp [hin.salt h.1] at h), if_pos ⟨hi, hdst⟩]

/-- Everything a command accesses is admitted: it succeeds. -/
theorem accessEffect_of_admitted (hin : InputsAdmitted i l p)
    (hdst : writesOutput i = true → p.admitsRegion l.dst = true) :
    accessEffect i l p k d src salt =
      { code := .ok, dp := finishedDatapath i (commandDatapath i src salt l.iter.toNat d), draws := k
        writes := counterWrite l i ++ outputWrite l i (commandDatapath i src salt l.iter.toNat d) } := by
  rw [accessEffect, if_neg (fun h => by simp [hin.source h.1] at h), if_neg (fun h => by simp [hin.counter h.1] at h),
    if_neg (fun h => by simp [hin.salt h.1] at h), if_neg (fun h => by simp [hdst h.1] at h)]

end Branches

/-! ### The one equation -/

section Ends
variable (s : State) (e : EngineId) (k : Nat) (d : Datapath) (ws : List (Nat × List Byte))

theorem State.abortHash_eq_after {i : Instr}
    (hi : i = .hashInit e ∨ i = .hashUpdate e ∨ i = .hashFinalize e ∨ i = .hashOneshot e) :
    ({ s with dp := d, mem := s.mem.writeAll ws, draws := k } : State).abortHash e =
      s.after i (.abort i k d ws) := by
  rcases hi with rfl | rfl | rfl | rfl <;> rfl

theorem State.abortMac_eq_after :
    ({ s with dp := d, mem := s.mem.writeAll ws, draws := k } : State).abortMac =
      s.after .macCompute (.abort .macCompute k d ws) := rfl

theorem State.abortContext_eq_after {i : Instr} (hi : buildsContext i = true) :
    ({ s with dp := d, mem := s.mem.writeAll ws, draws := k } : State).abortContext =
      s.after i (.abort i k d ws) := by
  cases i with
  | macInit | deriveKey => rfl
  | hashInit | hashUpdate | hashFinalize | hashOneshot | macClone | macCompute => cases hi

/-- A command other than DERIVE_KEY that writes DST succeeds. -/
theorem State.complete_eq_after {i : Instr} (hi : i ≠ .deriveKey) (hout : writesOutput i = true) :
    ({ s with dp := d, mem := s.mem.writeBytes s.latch.dst.base (outputBytes i d).toList } : State).complete .ok =
      s.after i { code := .ok, dp := d, draws := s.draws
                  writes := counterWrite s.latch i ++ outputWrite s.latch i d } := by
  rw [counterWrite, if_neg hi, outputWrite, if_pos hout, List.nil_append, State.after, Memory.writeAll_cons, Memory.writeAll_nil,
    State.completedWindow_of_ne _ _ hi]
  rfl

/-- DERIVE_KEY succeeds. -/
theorem State.deriveEnd_eq_after : s.derive3.deriveEnd.complete .ok =
    s.after .deriveKey
      { code := .ok, draws := s.draws
        dp := finishedDatapath .deriveKey s.derive2.dp
        writes := counterWrite s.latch .deriveKey ++ outputWrite s.latch .deriveKey s.derive2.dp } := by
  rw [State.after, outputWrite, if_pos (by rfl), Memory.writeAll_append]
  rfl

theorem State.derive1_eq_writeAll : s.derive1 =
    { s with
      dp := s.dp.buildContext (s.bytesAt s.latch.src)
      mem := s.mem.writeAll (counterWrite s.latch .deriveKey)
      draws := s.draws } := rfl

/-- The data path of DERIVE_KEY after the loop. -/
theorem State.derive2_dp_eq : s.derive2.dp =
    commandDatapath .deriveKey (s.bytesAt s.latch.src) s.framedSalt s.latch.iter.toNat s.dp := rfl

theorem State.derive2_eq_writeAll : s.derive2 =
    { s with
      dp := commandDatapath .deriveKey (s.bytesAt s.latch.src) s.framedSalt s.latch.iter.toNat s.dp
      mem := s.mem.writeAll (counterWrite s.latch .deriveKey)
      draws := s.draws } := rfl

end Ends

/-- A command none of whose checks fails has the effect of its accesses. -/
theorem exec_eq_accessEffect {i : Instr} {s : State} (h : precheck s i = .ok) :
    exec i s =
      .next (s.after i (accessEffect i s.latch s.plat s.draws s.dp (s.bytesAt s.latch.src) s.framedSalt)) := by
  rw [precheck_eq] at h
  cases i <;>
    simp only [finalizedMisuse, contextMissing, lengthExceeded, saltCapacityShort, operandRegions, List.all_cons,
      List.all_nil, Bool.and_true, Bool.false_eq_true, if_false, decide_eq_true_eq, Bool.not_eq_true'] at h
  case hashInit e =>
    rw [exec_hashInit, accessEffect_of_admitted (.of_no_source (i := .hashInit e) rfl) nofun]
    rfl
  case hashUpdate e =>
    rcases exec_hashUpdate_cases e s with
      ⟨hfsm, -⟩ | ⟨hfsm, hlen, -⟩ | ⟨hfsm, hlen, ⟨hr, -⟩ | ⟨-, ⟨hsrc, hx⟩ | ⟨hsrc, hx⟩⟩⟩
    · simp [hfsm] at h
    · simp [hfsm, hlen] at h
    · simp [hfsm, hlen.not_gt, hr] at h
    · rw [hx, accessEffect_of_source rfl hsrc, ← State.abortHash_eq_after s e _ _ _ (.inr (.inl rfl))]
      rfl
    · rw [hx, accessEffect_of_admitted (.of_source (i := .hashUpdate e) nofun hsrc) nofun]
      rfl
  case hashFinalize e =>
    rcases exec_hashFinalize_cases e s with ⟨hfsm, -⟩ | ⟨hfsm, ⟨hr, -⟩ | ⟨-, ⟨hdst, hx⟩ | ⟨hdst, hx⟩⟩⟩
    · simp [hfsm] at h
    · simp [hfsm, hr] at h
    · rw [hx, accessEffect_of_output (.of_no_source (i := .hashFinalize e) rfl) rfl hdst, State.drawRegion_eq,
        ← State.abortHash_eq_after s e _ _ _ (.inr (.inr (.inl rfl)))]
      rfl
    · rw [hx, accessEffect_of_admitted (.of_no_source (i := .hashFinalize e) rfl) fun _ => hdst]
      exact congrArg _ (State.complete_eq_after s _ (i := .hashFinalize e) nofun rfl)
  case hashOneshot e =>
    rcases exec_hashOneshot_cases e s with ⟨hr | hr, -⟩ | ⟨-, -, ⟨hsrc, hx⟩ | ⟨hsrc, ⟨hdst, hx⟩ | ⟨hdst, hx⟩⟩⟩
    · simp [hr] at h
    · simp [hr] at h
    · rw [hx, accessEffect_of_source rfl hsrc, ← State.abortHash_eq_after s e _ _ _ (.inr (.inr (.inr rfl)))]
      rfl
    · rw [hx, accessEffect_of_output (.of_source (i := .hashOneshot e) nofun hsrc) rfl hdst, State.drawRegion_eq,
        ← State.abortHash_eq_after s e _ _ _ (.inr (.inr (.inr rfl)))]
      rfl
    · rw [hx, accessEffect_of_admitted (.of_source (i := .hashOneshot e) nofun hsrc) fun _ => hdst]
      exact congrArg _ (State.complete_eq_after s _ (i := .hashOneshot e) nofun rfl)
  case macInit =>
    rcases exec_macInit_cases s with ⟨hr, -⟩ | ⟨-, ⟨hsrc, hx⟩ | ⟨hsrc, hx⟩⟩
    · simp [hr] at h
    · rw [hx, accessEffect_of_source rfl hsrc, ← State.abortContext_eq_after s _ _ _ rfl]
      rfl
    · rw [hx, accessEffect_of_admitted (.of_source (i := .macInit) nofun hsrc) nofun]
      rfl
  case macClone =>
    rcases exec_macClone_cases s with ⟨hctx, -⟩ | ⟨-, hx⟩
    · simp [hctx] at h
    · rw [hx, accessEffect_of_admitted (.of_no_source (i := .macClone) rfl) nofun]
      rfl
  case macCompute =>
    rcases exec_macCompute_cases s with
      ⟨hctx, -⟩ | ⟨hctx, ⟨hr | hr, -⟩ | ⟨-, -, ⟨hsrc, hx⟩ | ⟨hsrc, ⟨hdst, hx⟩ | ⟨hdst, hx⟩⟩⟩⟩
    · simp [hctx] at h
    · simp [hctx, hr] at h
    · simp [hctx, hr] at h
    · rw [hx, accessEffect_of_source rfl hsrc, ← State.abortMac_eq_after]
      rfl
    · rw [hx, accessEffect_of_output (.of_source (i := .macCompute) nofun hsrc) rfl hdst, State.drawRegion_eq,
        ← State.abortMac_eq_after]
      rfl
    · rw [hx, accessEffect_of_admitted (.of_source (i := .macCompute) nofun hsrc) fun _ => hdst]
      exact congrArg _ (State.complete_eq_after s _ (i := .macCompute) nofun rfl)
  case deriveKey =>
    rcases exec_deriveKey_cases s with ⟨hcap, -⟩ | ⟨hcap, ⟨hr | hr | hr, -⟩ | ⟨-, -, -, ⟨hsrc, hx⟩ |
      ⟨hsrc, ⟨hcounter, hx⟩ | ⟨hcounter, ⟨hsalt, hx⟩ | ⟨hsalt, ⟨hdst, hx⟩ | ⟨hdst, hx⟩⟩⟩⟩⟩⟩
    · simp [hcap] at h
    · simp [hcap.not_gt, hr] at h
    · simp [hcap.not_gt, hr] at h
    · simp [hcap.not_gt, hr] at h
    · rw [hx, accessEffect_of_source rfl hsrc, ← State.abortContext_eq_after s _ _ _ rfl]
      rfl
    · rw [hx, accessEffect_of_counter hsrc hcounter, State.drawRegion_eq, ← State.abortContext_eq_after s _ _ _ rfl]
      rfl
    · rw [hx, accessEffect_of_salt hsrc hcounter hsalt, ← State.abortContext_eq_after s _ _ _ rfl,
        State.derive1_eq_writeAll]
    · rw [hx, accessEffect_of_output (.of_all hsrc hcounter hsalt) rfl hdst, State.drawRegion_eq,
        ← State.abortContext_eq_after s _ _ _ rfl, Memory.writeAll_append, State.derive2_eq_writeAll]
    · rw [hx, accessEffect_of_admitted (.of_all (i := .deriveKey) hsrc hcounter hsalt) fun _ => hdst,
        State.deriveEnd_eq_after, State.derive2_dp_eq]

end Sys2Proof.Machine

/-! PROOFS. What a command's effect depends on and what it leaves alone: operand registers and OVR, the memory outside the
footprint, the rejections and the E_BUS aborts, and the statements settled from these. -/

namespace Sys2Proof.Machine

/-! ### Every command is its effect -/

theorem exec_eq_effect (i : Instr) (s : State) : exec i s = .next (s.after i (s.effect i)) := by
  unfold State.effect
  split_ifs with h
  · exact exec_eq_accessEffect h
  · rw [exec_of_precheck_ne_ok h, State.after, State.completedWindow_of_ne_ok _ _ h]
    rfl

theorem exec_eq_next_iff {i : Instr} {s t : State} : exec i s = .next t ↔ t = s.after i (s.effect i) := by
  rw [exec_eq_effect, Host.Outcome.next.injEq, eq_comm]

theorem State.effect_code (s : State) (i : Instr) : (s.effect i).code = completionCode s i := by
  obtain ⟨t, hx, hwin⟩ := exec_completedWindow i s
  rw [exec_eq_next_iff] at hx
  subst hx
  exact congrArg Window.errcode hwin

/-- The data path a command computes from the bytes it reads in a state. -/
def State.computed (s : State) (i : Instr) : Datapath :=
  commandDatapath i (s.bytesAt s.latch.src) s.framedSalt s.latch.iter.toNat s.dp

/-- The ways a command can go: rejected by a check, aborted at one of its accesses, or done. -/
inductive CommandEffect (i : Instr) (s : State) : Effect → Prop
  | rejected (h : precheck s i ≠ .ok) :
    CommandEffect i s { code := precheck s i, dp := s.dp, draws := s.draws, writes := [] }
  /-- the source is not admitted -/
  | sourceAborts (h : precheck s i = .ok) (hi : readsSource i = true)
      (hsrc : s.plat.admitsRegion s.latch.src = false) :
    CommandEffect i s (.abort i s.draws s.dp [])
  /-- DERIVE_KEY's counter is not admitted -/
  | counterAborts (h : precheck s i = .ok) (hi : i = .deriveKey) (hsrc : s.plat.admitsRegion s.latch.src = true)
      (hcounter : s.plat.admitsRegion s.latch.counter = false) :
    CommandEffect i s (.abort i (s.draws + s.latch.counter.size) (s.dp.buildContext (s.bytesAt s.latch.src))
      [drawnWrite s.latch.counter s.draws])
  /-- DERIVE_KEY's salt is not admitted, and its counter is -/
  | saltAborts (h : precheck s i = .ok) (hi : i = .deriveKey) (hsrc : s.plat.admitsRegion s.latch.src = true)
      (hcounter : s.plat.admitsRegion s.latch.counter = true) (hsalt : s.plat.admitsRegion s.latch.salt = false) :
    CommandEffect i s (.abort i s.draws (s.dp.buildContext (s.bytesAt s.latch.src)) (counterWrite s.latch i))
  /-- the destination is not admitted -/
  | outputAborts (h : precheck s i = .ok) (hin : InputsAdmitted i s.latch s.plat) (hi : writesOutput i = true)
      (hdst : s.plat.admitsRegion s.latch.dst = false) :
    CommandEffect i s (.abort i (s.draws + s.latch.dst.size) (s.computed i)
      (counterWrite s.latch i ++ [drawnWrite s.latch.dst s.draws]))
  | succeeds (h : precheck s i = .ok) (hin : InputsAdmitted i s.latch s.plat)
      (hdst : writesOutput i = true → s.plat.admitsRegion s.latch.dst = true) :
    CommandEffect i s
      { code := .ok, dp := finishedDatapath i (s.computed i), draws := s.draws
        writes := counterWrite s.latch i ++ outputWrite s.latch i (s.computed i) }

theorem State.effect_cases (s : State) (i : Instr) : CommandEffect i s (s.effect i) := by
  unfold State.effect
  split_ifs with h
  · unfold accessEffect
    split_ifs with hsrc hcounter hsalt hdst
    · exact .sourceAborts h hsrc.1 hsrc.2
    all_goals simp only [not_and, Bool.not_eq_false] at hsrc
    · obtain ⟨rfl, hcounter⟩ := hcounter
      exact .counterAborts h rfl (hsrc rfl) hcounter
    all_goals simp only [not_and, Bool.not_eq_false] at hcounter
    · obtain ⟨rfl, hsalt⟩ := hsalt
      exact .saltAborts h rfl (hsrc rfl) (hcounter rfl) hsalt
    all_goals simp only [not_and, Bool.not_eq_false] at hsalt
    · exact .outputAborts h ⟨hsrc, hcounter, hsalt⟩ hdst.1 hdst.2
    · exact .succeeds h ⟨hsrc, hcounter, hsalt⟩ (by simpa using hdst)
  · exact .rejected h

/-! ### What an effect depends on -/

/-- The checks read the latch and the data path (spec/60_exceptions.md R244). -/
theorem precheck_congr {s u : State} (hlatch : u.latch = s.latch) (hdp : u.dp = s.dp) (i : Instr) :
    precheck u i = precheck s i := by
  cases s
  cases u
  cases hlatch
  cases hdp
  cases i <;> rfl

theorem accessEffect_congr {i : Instr} {l : Latch} {p : Platform} {k : Nat} {d : Datapath}
    {src src' salt salt' : List Byte} (hsrc : readsSource i = true → src' = src)
    (hsalt : i = .deriveKey → salt' = salt) :
    accessEffect i l p k d src' salt' = accessEffect i l p k d src salt := by
  by_cases hi : i = .deriveKey
  · subst hi
    rw [hsrc rfl, hsalt rfl]
  · have hdp : commandDatapath i src' salt' l.iter.toNat d = commandDatapath i src salt l.iter.toNat d := by
      cases i with
      | deriveKey => exact absurd rfl hi
      | hashUpdate e => rw [hsrc rfl]; rfl
      | hashOneshot e => rw [hsrc rfl]; rfl
      | macInit => rw [hsrc rfl]; rfl
      | macCompute => rw [hsrc rfl]; rfl
      | hashInit e => rfl
      | hashFinalize e => rfl
      | macClone => rfl
    simp only [accessEffect, hi, false_and, if_false, hdp]

/-- An effect depends on the latch, the platform, the data path, the number of the next free value and the bytes the
command reads. -/
theorem State.effect_congr {s u : State} {i : Instr} (hlatch : u.latch = s.latch) (hplat : u.plat = s.plat)
    (hdraws : u.draws = s.draws) (hdp : u.dp = s.dp)
    (hsrc : readsSource i = true → u.bytesAt s.latch.src = s.bytesAt s.latch.src)
    (hsalt : i = .deriveKey → u.framedSalt = s.framedSalt) : u.effect i = s.effect i := by
  rw [State.effect, State.effect, precheck_congr hlatch hdp, hlatch, hplat, hdraws, hdp, accessEffect_congr hsrc hsalt]

/-- No command reads the window (spec/10_state.md R31, spec/60_exceptions.md R248). -/
theorem State.effect_with_win (s : State) (w : Window) (i : Instr) : { s with win := w }.effect i = s.effect i :=
  State.effect_congr rfl rfl rfl rfl (fun _ => rfl) (fun _ => rfl)

/-! ### Memory after writes -/

theorem Memory.readBytes_congr {m m' : Memory} {r : Region} (h : ∀ a, r.holds a = true → m.read a = m'.read a) :
    m.readBytes r.base r.size = m'.readBytes r.base r.size := by
  apply List.map_congr_left
  intro i hi
  exact h _ (by simpa [Region.holds] using hi)

/-- After the same bytes are written to two memories, a byte is equal in both or left in both. -/
theorem Memory.read_writeBytes_both (bs : List Byte) (m m' : Memory) (a x : Nat) :
    (m'.writeBytes a bs).read x = (m.writeBytes a bs).read x ∨
      ((m.writeBytes a bs).read x = m.read x ∧ (m'.writeBytes a bs).read x = m'.read x) := by
  induction bs generalizing m m' a with
  | nil => exact .inr ⟨rfl, rfl⟩
  | cons b bs ih =>
    rw [Memory.writeBytes, Memory.writeBytes]
    split_ifs with ha
    · by_cases hx : x = a
      · subst hx
        rcases ih (m.write x b) (m'.write x b) (x + 1) with h | ⟨h, h'⟩
        · exact .inl h
        · exact .inl (by rw [h, h', Memory.read_write_self, Memory.read_write_self])
      · simpa only [Memory.read_write_ne _ hx] using ih (m.write a b) (m'.write a b) (a + 1)
    · exact ih m m' (a + 1)

theorem Memory.read_writeBytes_congr {m m' : Memory} {x : Nat} (h : m'.read x = m.read x) (a : Nat)
    (bs : List Byte) : (m'.writeBytes a bs).read x = (m.writeBytes a bs).read x := by
  rcases Memory.read_writeBytes_both bs m m' a x with heq | ⟨hm, hm'⟩
  · exact heq
  · rw [hm, hm', h]

theorem Memory.read_writeAll_both (ws : List (Nat × List Byte)) (m m' : Memory) (x : Nat) :
    (m'.writeAll ws).read x = (m.writeAll ws).read x ∨
      ((m.writeAll ws).read x = m.read x ∧ (m'.writeAll ws).read x = m'.read x) := by
  induction ws generalizing m m' with
  | nil => exact .inr ⟨rfl, rfl⟩
  | cons w ws ih =>
    rw [Memory.writeAll_cons, Memory.writeAll_cons]
    rcases ih (m.writeBytes w.1 w.2) (m'.writeBytes w.1 w.2) with h | ⟨h, h'⟩
    · exact .inl h
    · rw [h, h']
      exact Memory.read_writeBytes_both w.2 m m' w.1 x

/-- Writing bytes leaves what the region they fill does not hold. -/
theorem Memory.read_writeBytes_of_holds_eq_false {m : Memory} {a x : Nat} {bs : List Byte}
    (h : (⟨a, bs.length⟩ : Region).holds x = false) : (m.writeBytes a bs).read x = m.read x := by
  refine Memory.read_writeBytes_outside bs m a x ?_
  simpa [Region.holds, or_iff_not_imp_left] using h

/-- The regions writes fill, each one of the given ones. -/
def WritesWithin (rs : List Region) (ws : List (Nat × List Byte)) : Prop :=
  ∀ w ∈ ws, (⟨w.1, w.2.length⟩ : Region) ∈ rs

theorem Memory.read_writeAll_outside {rs : List Region} {ws : List (Nat × List Byte)} (hws : WritesWithin rs ws)
    {x : Nat} (hx : anyHolds rs x = false) (m : Memory) : (m.writeAll ws).read x = m.read x := by
  induction ws generalizing m with
  | nil => rfl
  | cons w ws ih =>
    obtain ⟨hw, hrest⟩ := List.forall_mem_cons.mp hws
    rw [Memory.writeAll_cons, ih hrest]
    refine Memory.read_writeBytes_of_holds_eq_false ?_
    simp only [anyHolds, List.any_eq_false, Bool.not_eq_true] at hx
    exact hx _ hw

theorem Memory.wf_writeAll {m : Memory} (h : m.wf = true) (ws : List (Nat × List Byte)) :
    (m.writeAll ws).wf = true := by
  induction ws generalizing m with
  | nil => exact h
  | cons w ws ih => exact ih (Memory.wf_writeBytes h w.1 w.2)

theorem counterWrite_deriveKey (l : Latch) : counterWrite l .deriveKey = [(l.counter.base, counterBytes)] := rfl

theorem counterWrite_of_ne {i : Instr} (h : i ≠ .deriveKey) (l : Latch) : counterWrite l i = [] := if_neg h

theorem drawnWrite_region (r : Region) (k : Nat) :
    (⟨(drawnWrite r k).1, (drawnWrite r k).2.length⟩ : Region) = r := by
  simp [drawnWrite]

theorem src_mem_readSet_iff (l : Latch) (i : Instr) : l.src ∈ readSet l i ↔ readsSource i = true := by
  cases i <;> simp [readSet, readsSource]

theorem dst_mem_writeSet {i : Instr} (h : writesOutput i = true) (l : Latch) : l.dst ∈ writeSet l i := by
  cases i <;> simp_all [writesOutput, writeSet]

theorem writesWithin_counterWrite (l : Latch) (i : Instr) : WritesWithin (writeSet l i) (counterWrite l i) := by
  by_cases hi : i = .deriveKey
  · subst hi
    intro w hw
    rw [counterWrite_deriveKey, List.mem_singleton] at hw
    rw [hw, Latch.counter_eq]
    simp [writeSet]
  · rw [counterWrite_of_ne hi]
    exact nofun

theorem WritesWithin.append {rs : List Region} {ws ws' : List (Nat × List Byte)} (h : WritesWithin rs ws)
    (h' : WritesWithin rs ws') : WritesWithin rs (ws ++ ws') := by
  intro w hw
  rcases List.mem_append.mp hw with hw | hw
  · exact h w hw
  · exact h' w hw

theorem WritesWithin.singleton {rs : List Region} {w : Nat × List Byte} (h : (⟨w.1, w.2.length⟩ : Region) ∈ rs) :
    WritesWithin rs [w] := by
  intro w' hw'
  rwa [List.mem_singleton.mp hw']

/-- A command writes only its write set (spec/20_memory.md R69). -/
theorem CommandEffect.writesWithin {i : Instr} {s : State} {x : Effect} (h : CommandEffect i s x) :
    WritesWithin (writeSet s.latch i) x.writes := by
  cases h with
  | rejected => exact nofun
  | sourceAborts => exact nofun
  | counterAborts _ hi =>
    subst hi
    refine .singleton ?_
    rw [drawnWrite_region]
    simp [writeSet]
  | saltAborts => exact writesWithin_counterWrite _ _
  | outputAborts _ _ hi =>
    refine (writesWithin_counterWrite _ _).append (.singleton ?_)
    rw [drawnWrite_region]
    exact dst_mem_writeSet hi _
  | succeeds =>
    refine (writesWithin_counterWrite _ _).append ?_
    unfold outputWrite
    split_ifs with hi
    · refine .singleton ?_
      rw [Latch.dst_eq]
      exact dst_mem_writeSet hi _
    · exact nofun

theorem State.after_mem_read_outside (s : State) (i : Instr) {a : Nat}
    (ha : anyHolds (writeSet s.latch i) a = false) : (s.after i (s.effect i)).mem.read a = s.mem.read a :=
  Memory.read_writeAll_outside (s.effect_cases i).writesWithin ha s.mem

/-! ### Register writes and the latch, and OVR -/

theorem Reg.at?_eq_some_iff {off : Nat} {r : Reg} : Reg.at? off = some r ↔ off = r.offset := by
  constructor
  · intro h
    have hfound := List.find?_some h
    simpa using Eq.symm (by simpa using hfound : r.offset = off)
  · rintro rfl
    exact Reg.at?_offset r

/-- OVR stays under a register write unless the host writes 1 to STATUS[3] (spec/60_exceptions.md R248). -/
theorem State.writeReg_ovr {s : State} (r : Option Reg) (v : Word32) (h : s.win.ovr = true) :
    (s.writeReg r v).win.ovr = true ∨ (r = some .status ∧ v.getLsbD 3 = true) := by
  rcases r with _ | r
  · exact .inl h
  cases r
  case status =>
    cases hv : v.getLsbD 3
    · refine .inl ?_
      rw [State.writeReg, Window.writeStatus_ovr, h, hv]
      rfl
    · exact .inr ⟨rfl, rfl⟩
  case cmd =>
    refine .inl ?_
    rw [State.writeReg, State.writeCmd]
    split
    · rfl
    · exact h
  all_goals exact .inl h

/-! ### Admitted regions -/

/-- The counter is the last four bytes of the framed salt (spec/43_key_stretcher.md R223). -/
theorem Platform.admitsRegion_counter_of_salt {p : Platform} {l : Latch} (h : p.admitsRegion l.salt = true) :
    p.admitsRegion l.counter = true := by
  rw [Platform.admitsRegion_iff] at h ⊢
  intro i hi
  have hbyte := h (l.auxLen.toNat + i) (Nat.add_lt_add_left hi _)
  rwa [Latch.salt, ← Nat.add_assoc] at hbyte

/-- A command that passes its checks and whose regions are admitted ends with E_OK. -/
theorem exec_ok_of_admitted {i : Instr} {s : State} (hok : precheck s i = .ok) (hadmitted : footprintAdmitted s i = true) :
    ∃ t, exec i s = .next t ∧ t.win.errcode = .ok := by
  obtain ⟨t, hx, hwin⟩ := exec_of_precheck_eq_ok hok
  exact ⟨t, hx, by rw [hwin, State.completedWindow_errcode, if_pos hadmitted]⟩

/-! ### The statements -/

/-- Settles O11. An effect does not depend on the window, and the window it leaves keeps the operand registers but for
AUX_LEN; of the steps, only an accepted CMD write and reset touch the latch. -/
theorem latchIsolatesTheRunningCommand : Obligations.LatchIsolatesTheRunningCommand := by
  refine ⟨fun i s sa sl da aa al ac it => ⟨_, exec_eq_effect i s, ?registers⟩, fun s t h => ?latch⟩
  case registers =>
    rw [exec_eq_effect, State.effect_with_win]
    generalize s.effect i = x
    by_cases hx : i = .deriveKey ∧ x.code = .ok <;> simp [State.after, State.completedWindow, hx, Window.complete]
  case latch =>
    rcases step_cases h with ⟨hturn, hhost⟩ | ⟨-, -, rfl⟩ | ⟨-, -, i, -, hx⟩ | ⟨-, -, -, -, rfl⟩ | ⟨hturn, -⟩
    · rcases State.hostStep_cases hhost with ⟨m, n, hs, rfl, -⟩ | ⟨addr, width, v, rest, off, hops, hoff, rfl⟩
      · exact .inl rfl
      · rcases (State.writeReg_frame (Reg.at? off) v s.popTurn.popOp).2 with hkeep | ⟨hreg, hidle, -⟩
        · exact .inl hkeep
        · obtain rfl := Reg.at?_eq_some_iff.mp hreg
          exact .inr (.inr ⟨hturn, hidle, addr, width, v, congrArg List.head? hops, hoff⟩)
    · exact .inl rfl
    · rw [exec_eq_next_iff] at hx
      subst hx
      exact .inl rfl
    · exact .inl rfl
    · exact .inr (.inl hturn)

/-- Settles O12. -/
theorem completionReportsTheCode : Obligations.CompletionReportsTheCode := by
  refine ⟨fun s c => rfl, fun i s => ⟨_, exec_eq_effect i s, ?_⟩, fun s why => State.engineStep_of_illegal⟩
  generalize s.effect i = x
  exact ⟨rfl, rfl, rfl, rfl, rfl⟩

/-- Settles O14. An effect does not depend on the window, and a completion keeps OVR; of the steps, only a write of 1 to
STATUS[3] and reset clear it. -/
theorem overrunIsStickyAndHarmless : Obligations.OverrunIsStickyAndHarmless := by
  refine ⟨fun s v hbusy => if_pos hbusy, fun i s => ⟨_, exec_eq_effect i s, ?harmless⟩, fun s t h hovr => ?sticky⟩
  case harmless =>
    rw [exec_eq_effect, State.effect_with_win]
    rfl
  case sticky =>
    rcases step_cases h with ⟨hturn, hhost⟩ | ⟨-, -, rfl⟩ | ⟨-, -, i, -, hx⟩ | ⟨-, -, -, -, rfl⟩ | ⟨hturn, -⟩
    · rcases State.hostStep_cases hhost with ⟨m, n, hs, rfl, -⟩ | ⟨addr, width, v, rest, off, hops, hoff, rfl⟩
      · exact .inl hovr
      · rcases State.writeReg_ovr (s := s.popTurn.popOp) (Reg.at? off) v hovr with hkeep | ⟨hreg, hone⟩
        · exact .inl hkeep
        · obtain rfl := Reg.at?_eq_some_iff.mp hreg
          exact .inr (.inr ⟨hturn, addr, width, v, congrArg List.head? hops, hoff, hone⟩)
    · exact .inl hovr
    · rw [exec_eq_next_iff] at hx
      subst hx
      exact .inl hovr
    · exact .inl hovr
    · exact .inr (.inl hturn)

/-- Settles O17. The checks read the latch and the data path, which a rejection keeps. -/
theorem rejectionIsRepeatable : Obligations.RejectionIsRepeatable := by
  intro i s t m hrejected h
  rw [exec_of_precheck_ne_ok hrejected, Host.Outcome.next.injEq] at h
  subst h
  have hagain : precheck (s.complete (precheck s i)) i = precheck s i := precheck_congr rfl rfl i
  have hmem : precheck { s with mem := m } i = precheck s i := precheck_congr rfl rfl i
  constructor
  · rw [exec_of_precheck_ne_ok (by rwa [hagain]), hagain]
    rfl
  · rw [exec_of_precheck_ne_ok (by rwa [hmem]), hmem]
    rfl

/-- The salt and counter DERIVE_KEY reads back are equal in memories that agree on the salt region. -/
theorem State.framedSalt_with_mem {s : State} {m : Memory}
    (h : ∀ a, s.latch.salt.holds a = true → m.read a = s.mem.read a) :
    { s with mem := m }.framedSalt = s.framedSalt := by
  rw [State.framedSalt_eq, State.framedSalt_eq]
  exact Memory.readBytes_congr fun a ha => Memory.read_writeBytes_congr (h a ha) _ _

/-- Settles O22. From memories that agree on the read set a command has one effect, whose writes lie in its write set. -/
theorem commandTouchesOnlyItsFootprint : Obligations.CommandTouchesOnlyItsFootprint := by
  refine ⟨fun l => ?table, fun r a => by simp [Region.holds], fun i s m hm => ?agree⟩
  case table =>
    exact ⟨rfl, rfl, rfl, rfl, fun e => ⟨⟨rfl, rfl⟩, ⟨rfl, rfl⟩, ⟨rfl, rfl⟩, ⟨rfl, rfl⟩⟩, ⟨rfl, rfl⟩, ⟨rfl, rfl⟩,
      ⟨rfl, rfl⟩, ⟨rfl, rfl⟩⟩
  case agree =>
    have hregion : ∀ r ∈ readSet s.latch i, ∀ a, r.holds a = true → m.read a = s.mem.read a :=
      fun r hr a ha => hm a (List.any_eq_true.mpr ⟨r, hr, ha⟩)
    have heffect : { s with mem := m }.effect i = s.effect i := by
      refine State.effect_congr rfl rfl rfl rfl (fun hi => ?_) (fun hi => ?_)
      · exact Memory.readBytes_congr (hregion _ ((src_mem_readSet_iff s.latch i).mpr hi))
      · subst hi
        exact State.framedSalt_with_mem (hregion _ (by simp [readSet]))
    have hwithin := (s.effect_cases i).writesWithin
    refine ⟨_, _, exec_eq_effect i s, exec_eq_effect i { s with mem := m }, ?_, fun a ha => ⟨?_, ?_⟩, fun a _ => ?_⟩
    · rw [heffect]
      rfl
    · exact Memory.read_writeAll_outside hwithin ha s.mem
    · rw [heffect]
      exact Memory.read_writeAll_outside hwithin ha m
    · rw [heffect]
      exact Memory.read_writeAll_both _ s.mem m a

/-- Two latches between which the accesses of a command make no difference, and its checks neither. -/
theorem State.effect_with_latch {s : State} {l : Latch} {i : Instr} (hcheck : precheck { s with latch := l } i = precheck s i)
    (hsrc : l.src = s.latch.src) (hsalt : { s with latch := l }.framedSalt = s.framedSalt)
    (haccess : ∀ src salt, accessEffect i l s.plat s.draws s.dp src salt =
      accessEffect i s.latch s.plat s.draws s.dp src salt) :
    { s with latch := l }.effect i = s.effect i := by
  have hbytes : { s with latch := l }.bytesAt l.src = s.bytesAt s.latch.src := by rw [hsrc]; rfl
  rw [State.effect, hcheck, hbytes, hsalt, haccess]
  rfl

/-- Settles O48. The loop makes c - 1 passes, which are none for c = 0 and for c = 1. -/
theorem iterationCountsZeroAndOneAgree : Obligations.IterationCountsZeroAndOneAgree := by
  refine ⟨fun S c d => ?passes, fun s => ?agree⟩
  case passes =>
    rw [Datapath.stretch]
    congr 1
    omega
  case agree =>
    have hdp : ∀ (src salt : List Byte) (d : Datapath),
        commandDatapath .deriveKey src salt (1 : Word32).toNat d =
          commandDatapath .deriveKey src salt (0 : Word32).toNat d := fun _ _ _ => rfl
    have heffect : { s with latch := { s.latch with iter := 1 } }.effect .deriveKey =
        { s with latch := { s.latch with iter := 0 } }.effect .deriveKey := by
      refine State.effect_with_latch (s := { s with latch := { s.latch with iter := 0 } }) rfl rfl rfl fun src salt => ?_
      simp only [accessEffect, hdp]
      rfl
    refine ⟨{ s with latch := { s.latch with iter := 0 } }.after .deriveKey
      ({ s with latch := { s.latch with iter := 0 } }.effect .deriveKey), exec_eq_effect _ _, ?_⟩
    rw [exec_eq_effect, heffect]
    rfl

/-- Settles O49. Beyond the capacity check no command reads L_AUX_CAP. -/
theorem saltCapacityCheckIsExact : Obligations.SaltCapacityCheckIsExact := by
  have hshort : ∀ s : State, s.latch.auxCap.toNat < s.latch.auxLen.toNat + 4 →
      exec .deriveKey s = .next (s.complete .saltCap) := by
    intro s h
    have hcode : precheck s .deriveKey = .saltCap := by
      simp [precheck, finalizedMisuse, contextMissing, lengthExceeded, saltCapacityShort, h]
    rw [exec_of_precheck_ne_ok (by simp [hcode]), hcode]
  have hcheck : ∀ s : State, s.latch.auxLen.toNat + 4 ≤ s.latch.auxCap.toNat → precheck s .deriveKey =
      if (operandRegions s.latch .deriveKey).all Region.inRange then .ok else .addr := by
    intro s h
    simp [precheck_eq, finalizedMisuse, contextMissing, lengthExceeded, saltCapacityShort, h.not_gt]
  refine ⟨hshort, fun s h => hshort s ?full, fun s t hroom hx => ?room, fun s cap hroom hcap => ?capacity⟩
  case full =>
    have hcap : s.latch.auxCap.toNat < 2 ^ 32 := s.latch.auxCap.isLt
    omega
  case room =>
    rw [exec_eq_next_iff] at hx
    subst hx
    have hcap : s.latch.auxCap.toNat < 2 ^ 32 := s.latch.auxCap.isLt
    rw [State.after_win, State.completedWindow_errcode]
    refine ⟨?_, fun hok => ?_⟩
    · rw [State.effect_code, completionCode, hcheck s hroom]
      split_ifs <;> decide
    · have hlen : (s.latch.auxLen + 4).toNat = s.latch.auxLen.toNat + 4 := by
        rw [BitVec.toNat_add]
        exact Nat.mod_eq_of_lt (by simpa using by omega)
      rw [State.completedWindow, if_pos ⟨rfl, hok⟩, hlen]
  case capacity =>
    have heffect : { s with latch := { s.latch with auxCap := cap } }.effect .deriveKey = s.effect .deriveKey := by
      refine State.effect_with_latch ?_ rfl rfl fun src salt => rfl
      rw [hcheck s hroom, hcheck _ hcap]
      rfl
    refine ⟨_, exec_eq_effect _ _, ?_⟩
    rw [exec_eq_effect, heffect]
    rfl

/-- Settles O55. Each check is decided by the reset values and the premises on the regions. -/
theorem commandsFromReset : Obligations.CommandsFromReset := by
  intro s hengine hvalid e
  have hfsm : (s.dp.engine e).fsm = .finalized := by
    rw [hengine]
    rfl
  have hupdate : precheck s (.hashUpdate e) = .finalized := by simp [precheck, finalizedMisuse, hfsm]
  have hfinalize : precheck s (.hashFinalize e) = .finalized := by simp [precheck, finalizedMisuse, hfsm]
  have hcompute : precheck s .macCompute = .noCtx := by simp [precheck, finalizedMisuse, contextMissing, hvalid]
  have hclone : precheck s .macClone = .noCtx := by simp [precheck, finalizedMisuse, contextMissing, hvalid]
  refine ⟨?_, ?_, ?_, ?_, ⟨_, exec_hashInit e s, rfl⟩, fun hsrc hdst => exec_ok_of_admitted ?_ ?_,
    fun hsrc => exec_ok_of_admitted ?_ ?_, fun hsrc hdst hsalt hroom => exec_ok_of_admitted ?_ ?_⟩
  · rw [exec_of_precheck_ne_ok (by simp [hupdate]), hupdate]
  · rw [exec_of_precheck_ne_ok (by simp [hfinalize]), hfinalize]
  · rw [exec_of_precheck_ne_ok (by simp [hcompute]), hcompute]
  · rw [exec_of_precheck_ne_ok (by simp [hclone]), hclone]
  · simp [precheck_eq, finalizedMisuse, contextMissing, lengthExceeded, saltCapacityShort, operandRegions, hsrc.1, hdst.1]
  · simp [footprintAdmitted, Platform.admitsFootprint, readSet, writeSet, hsrc.2, hdst.2]
  · simp [precheck_eq, finalizedMisuse, contextMissing, lengthExceeded, saltCapacityShort, operandRegions, hsrc.1]
  · simp [footprintAdmitted, Platform.admitsFootprint, readSet, writeSet, hsrc.2]
  · simp [precheck_eq, finalizedMisuse, contextMissing, lengthExceeded, saltCapacityShort, operandRegions, hsrc.1,
      hdst.1, hsalt.1, hroom.not_gt]
  · simp [footprintAdmitted, Platform.admitsFootprint, readSet, writeSet, hsrc.2, hdst.2, hsalt.2,
      Platform.admitsRegion_counter_of_salt hsalt.2]

end Sys2Proof.Machine

/-! PROOFS. The families of spec/42_keyed_mac.md and spec/43_key_stretcher.md, the data path: the context of a key, the tag
under it, the chain of the stretcher, the compressions each of them takes, and what a command leaves of the engines and
the context. -/

namespace Sys2Proof.Machine

/-! ### Engines that hold one stream -/

/-- Two engines with equal H, POS, SIZE and meaningful bytes of BUF: what Absorb and Finalize read. -/
structure Engine.SameStream (x y : Engine) : Prop where
  h        : x.h = y.h
  pos      : x.pos = y.pos
  size     : x.size = y.size
  buffered : x.buffered = y.buffered

theorem Engine.SameStream.refl (x : Engine) : x.SameStream x := ⟨rfl, rfl, rfl, rfl⟩

theorem Engine.SameStream.of_eq {x y : Engine} (h : x = y) : x.SameStream y := h ▸ .refl x

theorem Engine.SameStream.symm {x y : Engine} (h : x.SameStream y) : y.SameStream x :=
  ⟨h.h.symm, h.pos.symm, h.size.symm, h.buffered.symm⟩

theorem Engine.SameStream.trans {x y z : Engine} (h : x.SameStream y) (h' : y.SameStream z) : x.SameStream z :=
  ⟨h.h.trans h'.h, h.pos.trans h'.pos, h.size.trans h'.size, h.buffered.trans h'.buffered⟩

section SameStream
variable {l l' : Lane}

theorem Engine.SameStream.absorb (h : l.eng.SameStream l'.eng) (M : List Byte) :
    (l.absorb M).eng.SameStream (l'.absorb M).eng := by
  have hx := l.absorb_spec M
  have hy := l'.absorb_spec M
  have hstream : l.eng.stream M = l'.eng.stream M := by rw [Engine.stream, Engine.stream, h.buffered]
  have hblocks : l.eng.streamBlocks M = l'.eng.streamBlocks M := by
    rw [Engine.streamBlocks, Engine.streamBlocks, h.pos]
  refine ⟨?_, BitVec.eq_of_toNat_eq ?_, ?_, ?_⟩
  · rw [hx.h, hy.h, hstream, hblocks, h.h]
  · rw [Lane.absorb_pos, Lane.absorb_pos, h.pos]
  · rw [hx.size, hy.size, h.size]
  · rw [hx.buffered, hy.buffered, hstream, hblocks]

theorem Engine.SameStream.finalize_h (h : l.eng.SameStream l'.eng) : l.finalize.eng.h = l'.finalize.eng.h := by
  have hblocks : l.eng.finalBlocks = l'.eng.finalBlocks := by rw [Engine.finalBlocks, Engine.finalBlocks, h.pos]
  rw [l.finalize_spec.h, l'.finalize_spec.h, Engine.finalStream, Engine.finalStream, hblocks, h.h, h.pos, h.size,
    h.buffered]

end SameStream

/-- Absorbing nothing changes only FSM of what an engine holds. -/
theorem Lane.absorb_nil (l : Lane) : (l.absorb []).eng.SameStream l.eng := by
  have hlt : l.eng.pos.toNat < 128 := l.eng.pos.isLt
  have hspec := l.absorb_spec []
  have hblocks : l.eng.streamBlocks [] = 0 := Nat.div_eq_of_lt hlt
  refine ⟨?_, BitVec.eq_of_toNat_eq ?_, ?_, ?_⟩
  · rw [hspec.h, hblocks]
    rfl
  · rw [Lane.absorb_pos]
    exact Nat.mod_eq_of_lt hlt
  · rw [hspec.size]
    simp
  · rw [hspec.buffered, hblocks]
    simp [Engine.stream]

/-- Pieces absorbed one after another leave what their joined bytes leave (spec/41_hash_engine.md R166). -/
theorem Lane.absorb_pieces (Ms : List (List Byte)) (l : Lane) :
    (Ms.foldl (fun l M => l.absorb M) l).eng.SameStream (l.absorb Ms.flatten).eng := by
  induction Ms generalizing l with
  | nil => exact l.absorb_nil.symm
  | cons M Ms ih =>
    obtain ⟨hh, hpos, hsize, hbuffered, -⟩ := splitUpdatesAreInvisible l M Ms.flatten
    exact (ih (l.absorb M)).trans ⟨hh, hpos, hsize, hbuffered⟩

/-! ### The context of a key -/

/-- The key block exclusive-or a pad byte (spec/42_keyed_mac.md R192). -/
def keyPad (x : Byte) (K : List Byte) : List Byte := (keyBytes K).map fun b => b ^^^ x

/-- The snapshot of an engine that absorbed a pad block of the key (spec/42_keyed_mac.md R190). -/
def keySnapshot (x : Byte) (K : List Byte) : Snapshot := { h := compressC iv (keyPad x K), pos := 0, size := 128 }

theorem keyBytes_length (K : List Byte) : (keyBytes K).length = 128 := by
  unfold keyBytes
  split
  · simp
  · simp
    omega

@[simp] theorem keyPad_length (x : Byte) (K : List Byte) : (keyPad x K).length = 128 := by
  rw [keyPad, List.length_map, keyBytes_length]

theorem zeroPadded_toList {n : Nat} {B : List Byte} (h : B.length ≤ n) :
    (zeroPadded n B).toList = B ++ List.replicate (n - B.length) 0 := by
  apply List.ext_getElem (by simp; omega)
  intro i hi _
  by_cases hB : i < B.length
  · simp [zeroPadded, hB]
  · simp [zeroPadded, Nat.le_of_not_lt hB]

/-- A long key is condensed on E0 (spec/42_keyed_mac.md R191). -/
theorem Datapath.keyBlock_of_long (d : Datapath) {K : List Byte} (h : K.length > 128) : d.keyBlock K =
    { d.onEngine .e0 (Lane.oneshot K) with
      scratch := { (d.onEngine .e0 (Lane.oneshot K)).scratch with
        kb := zeroPadded 128 ((d.onEngine .e0 (Lane.oneshot K)).digest .e0).toList } } :=
  if_pos h

/-- The key block of a key, however long (spec/42_keyed_mac.md R191). -/
theorem Datapath.keyBlock_kb (d : Datapath) {K : List Byte} (hK : K.length ≤ 2 ^ 125 - 1) :
    (d.keyBlock K).scratch.kb.toList = keyBytes K := by
  by_cases hlong : K.length > 128
  · have hdigest : (d.onEngine .e0 (Lane.oneshot K)).digest .e0 = sha512 K := by
      rw [Datapath.digest_onEngine, Lane.digest_oneshot _ hK]
    rw [d.keyBlock_of_long hlong, hdigest, zeroPadded_toList (by simp), keyBytes, if_pos hlong, Vector.length_toList]
  · rw [Datapath.keyBlock, if_neg hlong, zeroPadded_toList (by omega), keyBytes, if_neg hlong]

/-- An engine that holds one block has the state of a snapshot that absorbed it. -/
theorem Engine.Holds.snapshot_of_block {P : List Byte} {x : Engine} (hx : x.Holds P) (hP : P.length = 128) :
    x.snapshot = { h := compressC iv P, pos := 0, size := 128 } := by
  have hh : x.h = compressC iv P := by rw [hx.h, hP, foldBlocks_one, List.take_of_length_le (by omega)]
  have hpos : x.pos = 0 := BitVec.eq_of_toNat_eq (by rw [hx.pos, hP]; rfl)
  have hsize : x.size = 128 := by rw [hx.size, hP]; rfl
  rw [Engine.snapshot, hh, hpos, hsize]

theorem pad_eq_keyPad (x : Byte) {kb : Vector Byte 128} {K : List Byte} (h : kb.toList = keyBytes K) :
    pad x kb = keyPad x K := by
  rw [pad, h, keyPad]

@[simp] theorem pad_length (x : Byte) (kb : Vector Byte 128) : (pad x kb).length = 128 := by
  simp [pad]

/-- The context built for a key holds the two states that absorbed its pad blocks (spec/42_keyed_mac.md R197). -/
theorem Datapath.buildContext_ctx (d : Datapath) {K : List Byte} (hK : K.length ≤ 2 ^ 125 - 1) :
    (d.buildContext K).ctxI = keySnapshot 0x36 K ∧ (d.buildContext K).ctxO = keySnapshot 0x5c K := by
  have hkb := d.keyBlock_kb hK
  obtain ⟨hI, hO, he0, he1⟩ := d.buildContext_snapshots K
  rw [hI, hO, he0, he1, pad_eq_keyPad _ hkb, pad_eq_keyPad _ hkb]
  exact ⟨((Lane.init_holds _).absorb _).snapshot_of_block (by simp),
    ((Lane.init_holds _).absorb _).snapshot_of_block (by simp)⟩

/-- A context that was built holds POS = 0 and SIZE = 128, whatever the key (spec/42_keyed_mac.md R190). -/
theorem Datapath.buildContext_pos_size (d : Datapath) (K : List Byte) :
    (d.buildContext K).ctxI.pos = 0 ∧ (d.buildContext K).ctxI.size = 128 ∧
      (d.buildContext K).ctxO.pos = 0 ∧ (d.buildContext K).ctxO.size = 128 := by
  obtain ⟨hI, hO, he0, he1⟩ := d.buildContext_snapshots K
  rw [hI, hO, he0, he1, ((Lane.init_holds _).absorb _).snapshot_of_block (by simp),
    ((Lane.init_holds _).absorb _).snapshot_of_block (by simp)]
  exact ⟨rfl, rfl, rfl, rfl⟩

/-! ### The tag -/

/-- An engine cloned from a key's snapshot holds the pad block, whatever BUF it keeps (spec/42_keyed_mac.md R195). -/
theorem Engine.cloneFrom_keySnapshot_holds (y : Engine) (x : Byte) (K : List Byte) :
    (y.cloneFrom (keySnapshot x K)).Holds (keyPad x K) := by
  refine ⟨?_, ?_, ?_⟩
  · rw [keyPad_length, foldBlocks_one, List.take_of_length_le (by simp)]
    rfl
  · rw [Engine.buffered_of_pos_zero rfl, List.drop_of_length_le (by simp)]
  · rw [keyPad_length]
    rfl

/-- The tag under the context of a key (spec/42_keyed_mac.md R200). -/
theorem Datapath.macTag_digest {d : Datapath} {K M : List Byte} (hI : d.ctxI = keySnapshot 0x36 K)
    (hO : d.ctxO = keySnapshot 0x5c K) (hM : M.length ≤ 2 ^ 124) : (d.macTag M).digest .e1 = hmac K M := by
  have hinner : (d.macInner M).digest .e0 = sha512 (keyPad 0x36 K ++ M) := by
    rw [Datapath.digest_eq, Datapath.engine_e0, Datapath.macInner_e0, hI]
    exact ((Engine.cloneFrom_keySnapshot_holds _ _ _).absorb (l := { d.lane .e0 with eng := _ }) M).finalize
      (by rw [List.length_append, keyPad_length]; omega)
  rw [Datapath.digest_eq, Datapath.engine_e1, Datapath.macTag_e1, hinner, hO]
  exact ((Engine.cloneFrom_keySnapshot_holds _ _ _).absorb (l := { (d.macInner M).lane .e1 with eng := _ }) _).finalize
    (by simp)

/-! ### The stretcher -/

/-- Passes of the loop extend the chain of U and the XOR of it (spec/43_key_stretcher.md R228). -/
theorem Datapath.stretchLoop_acc {P S : List Byte} (n m : Nat) {d : Datapath} (hI : d.ctxI = keySnapshot 0x36 P)
    (hO : d.ctxO = keySnapshot 0x5c P) (hu : d.scratch.u = chainU P S m) (hacc : d.scratch.acc = chainXor P S m) :
    (d.stretchLoop n).scratch.acc = chainXor P S (m + n) := by
  induction n generalizing d m with
  | zero => exact hacc
  | succ n ih =>
    obtain ⟨hu', hacc', hI', hO', -⟩ := d.stretchStep_fields
    have hnext : (d.macTag d.scratch.u.toList).digest .e1 = chainU P S (m + 1) := by
      rw [Datapath.macTag_digest hI hO (by simp), hu, chainU]
    rw [Datapath.stretchLoop, ih (m + 1) (hI'.trans hI) (hO'.trans hO) (hu'.trans hnext)
      (by rw [hacc', hacc, hnext, chainXor])]
    congr 1
    omega

theorem Datapath.stretch_acc {P S : List Byte} {d : Datapath} (hI : d.ctxI = keySnapshot 0x36 P)
    (hO : d.ctxO = keySnapshot 0x5c P) (hS : S.length ≤ 2 ^ 124) (c : Nat) :
    (d.stretch S c).scratch.acc = derivedKey P S c := by
  obtain ⟨hu, hacc, hI', hO', -⟩ := d.stretchStart_fields S
  have htag : (d.macTag S).digest .e1 = chainU P S 0 := by rw [Datapath.macTag_digest hI hO hS, chainU]
  rw [Datapath.stretch, Datapath.stretchLoop_acc (c - 1) 0 (hI'.trans hI) (hO'.trans hO) (hu.trans htag)
    (hacc.trans (by rw [htag, chainXor])), derivedKey]
  congr 1
  omega

/-! ### The engines' states -/

theorem Datapath.macTag_fsm (d : Datapath) (M : List Byte) (e : EngineId) :
    ((d.macTag M).engine e).fsm = .finalized := by
  cases e
  · rw [Datapath.engine_e0, Datapath.macTag_e0, Datapath.macInner_e0, (Lane.finalize_spec _).fsm]
  · rw [Datapath.engine_e1, Datapath.macTag_e1, (Lane.finalize_spec _).fsm]

/-- A start or a pass of the loop leaves the engines of its tag. -/
theorem Datapath.stretchLoop_fsm (n : Nat) {d : Datapath} (h : ∀ e, (d.engine e).fsm = .finalized) (e : EngineId) :
    ((d.stretchLoop n).engine e).fsm = .finalized := by
  induction n generalizing d with
  | zero => exact h e
  | succ n ih =>
    obtain ⟨-, -, -, -, -, he0, he1, -⟩ := d.stretchStep_fields
    refine ih fun e => ?_
    cases e
    · rw [Datapath.engine_e0, he0]
      exact d.macTag_fsm _ .e0
    · rw [Datapath.engine_e1, he1]
      exact d.macTag_fsm _ .e1

theorem Datapath.stretch_fsm (d : Datapath) (S : List Byte) (c : Nat) (e : EngineId) :
    ((d.stretch S c).engine e).fsm = .finalized := by
  obtain ⟨-, -, -, -, -, he0, he1, -⟩ := d.stretchStart_fields S
  refine Datapath.stretchLoop_fsm _ (fun e => ?_) e
  cases e
  · rw [Datapath.engine_e0, he0]
    exact d.macTag_fsm _ .e0
  · rw [Datapath.engine_e1, he1]
    exact d.macTag_fsm _ .e1

theorem Datapath.buildContext_fsm (d : Datapath) (K : List Byte) (e : EngineId) :
    ((d.buildContext K).engine e).fsm = .absorbing := by
  unfold Datapath.buildContext
  generalize d.keyBlock K = d'
  unfold Datapath.padAbsorb
  cases e <;> rfl

/-- FSM of an engine a command uses, after what it computes (spec/41_hash_engine.md R150). -/
theorem commandDatapath_fsm {i : Instr} {e : EngineId} (h : usesEngine i e = true) (src salt : List Byte) (n : Nat)
    (d : Datapath) : ((commandDatapath i src salt n d).engine e).fsm = fsmAfter i := by
  cases i with
  | hashInit x =>
    obtain rfl := of_decide_eq_true h
    rw [commandDatapath, Datapath.onEngine_engine]
    rfl
  | hashUpdate x =>
    obtain rfl := of_decide_eq_true h
    rw [commandDatapath, Datapath.onEngine_engine, (Lane.absorb_spec _ _).fsm]
    rfl
  | hashFinalize x =>
    obtain rfl := of_decide_eq_true h
    rw [commandDatapath, Datapath.onEngine_engine, (Lane.finalize_spec _).fsm]
    rfl
  | hashOneshot x =>
    obtain rfl := of_decide_eq_true h
    rw [commandDatapath, Datapath.onEngine_engine, Lane.oneshot, (Lane.finalize_spec _).fsm]
    rfl
  | macInit => exact d.buildContext_fsm src e
  | macClone => cases e <;> rfl
  | macCompute => exact d.macTag_fsm src e
  | deriveKey => exact Datapath.stretch_fsm _ _ _ e

/-! ### What a command leaves alone -/

/-- A command computes nothing in an engine it does not use (spec/10_state.md R37). -/
theorem commandDatapath_engine_unused {i : Instr} {e : EngineId} (h : usesEngine i e = false) (src salt : List Byte)
    (n : Nat) (d : Datapath) : (commandDatapath i src salt n d).engine e = d.engine e := by
  cases i with
  | hashInit x | hashUpdate x | hashFinalize x | hashOneshot x =>
    exact Datapath.onEngine_engine_ne (Ne.symm (of_decide_eq_false h)) d _
  | macInit | macClone | macCompute | deriveKey => cases h

/-- A command that builds no context leaves it (spec/10_state.md R39). -/
theorem commandDatapath_context {i : Instr} (h : buildsContext i = false) (src salt : List Byte) (n : Nat)
    (d : Datapath) :
    (commandDatapath i src salt n d).ctxI = d.ctxI ∧ (commandDatapath i src salt n d).ctxO = d.ctxO ∧
      (commandDatapath i src salt n d).ctxValid = d.ctxValid := by
  cases i with
  | hashInit | hashUpdate | hashFinalize | hashOneshot | macClone | macCompute => simp [commandDatapath]
  | macInit | deriveKey => cases h

@[simp] theorem finishedDatapath_engine (i : Instr) (d : Datapath) (e : EngineId) :
    (finishedDatapath i d).engine e = d.engine e := by
  unfold finishedDatapath
  split
  · cases e <;> rfl
  · rfl

theorem finishedDatapath_of_not_builder {i : Instr} (h : buildsContext i = false) (d : Datapath) :
    finishedDatapath i d = d := by
  rw [finishedDatapath, h]
  rfl

@[simp] theorem finishedDatapath_compressions (i : Instr) (d : Datapath) :
    (finishedDatapath i d).compressions = d.compressions := by
  unfold finishedDatapath
  split <;> rfl

section Aborted
variable {i : Instr} {e : EngineId} (k : Nat) (d : Datapath)

theorem abortedDatapath_fsm (h : usesEngine i e = true) :
    ((abortedDatapath i k d).engine e).fsm = .finalized := by
  cases i with
  | hashInit x | hashUpdate x | hashFinalize x | hashOneshot x =>
    obtain rfl := of_decide_eq_true h
    simp [abortedDatapath]
  | macInit | macClone | macCompute | deriveKey => cases e <;> rfl

theorem abortedDatapath_engine_unused (h : usesEngine i e = false) :
    (abortedDatapath i k d).engine e = d.engine e := by
  cases i with
  | hashInit x | hashUpdate x | hashFinalize x | hashOneshot x =>
    rw [abortedDatapath, Datapath.dropScratch_engine]
    exact Datapath.engine_setEngine_ne (Ne.symm (of_decide_eq_false h)) d _
  | macInit | macClone | macCompute | deriveKey => cases h

theorem abortedDatapath_context (h : buildsContext i = false) :
    (abortedDatapath i k d).ctxI = d.ctxI ∧ (abortedDatapath i k d).ctxO = d.ctxO ∧
      (abortedDatapath i k d).ctxValid = d.ctxValid := by
  cases i with
  | hashInit | hashUpdate | hashFinalize | hashOneshot => simp [abortedDatapath]
  | macClone | macCompute => exact ⟨rfl, rfl, rfl⟩
  | macInit | deriveKey => cases h

theorem abortedDatapath_ctxValid (h : buildsContext i = true) : (abortedDatapath i k d).ctxValid = false := by
  cases i with
  | macInit | deriveKey => rfl
  | hashInit | hashUpdate | hashFinalize | hashOneshot | macClone | macCompute => cases h

end Aborted

/-! ### Compressions -/

/-- The compressions of a context built (spec/42_keyed_mac.md R202). -/
theorem Datapath.buildContext_compressions (d : Datapath) (K : List Byte) :
    (d.buildContext K).compressions = d.compressions + keyWork K.length := by
  have hblock : ∀ (l : Lane) (kb : Vector Byte 128) (x : Byte), (l.init.absorb (pad x kb)).count = l.count + 1 := by
    intro l kb x
    rw [(l.init.absorb_spec _).count, Engine.streamBlocks, pad_length, Lane.init_pos, Lane.init_count]
    rfl
  have hkey : (d.keyBlock K).compressions = d.compressions + if K.length ≤ 128 then 0 else hashWork K.length := by
    by_cases hlong : K.length > 128
    · rw [d.keyBlock_of_long hlong, if_neg (by omega)]
      exact Lane.count_absorb_finalize (l := (d.lane .e0).init) rfl K
    · rw [Datapath.keyBlock, if_neg hlong, if_pos (by omega), Nat.add_zero]
  have hpads : (d.buildContext K).compressions = (d.keyBlock K).compressions + 2 := by
    rw [Datapath.buildContext, Datapath.snapshot_compressions, Datapath.padAbsorb, Datapath.onEngine_compressions,
      hblock, Datapath.lane_count, Datapath.onEngine_compressions, hblock, Datapath.lane_count]
  rw [hpads, hkey, keyWork]
  split <;> omega

/-- The compressions of a tag, under snapshots with an empty buffer (spec/42_keyed_mac.md R202). -/
theorem Datapath.macTag_compressions {d : Datapath} (hI : d.ctxI.pos = 0) (hO : d.ctxO.pos = 0) (M : List Byte) :
    (d.macTag M).compressions = d.compressions + (hashWork M.length + 1) := by
  have hinner : (d.macInner M).compressions = d.compressions + hashWork M.length := by
    unfold Datapath.macInner
    rw [Datapath.onEngine_compressions, Lane.count_absorb_finalize (by rw [Datapath.clone_lane]; exact hI)]
    simp
  rw [Datapath.macTag, Datapath.macOuter, Datapath.onEngine_compressions,
    Lane.count_absorb_finalize (by rw [Datapath.clone_lane]; exact hO), Datapath.lane_count,
    Datapath.clone_compressions, hinner, Vector.length_toList, Nat.add_assoc]
  rfl

theorem Datapath.stretchLoop_compressions (n : Nat) {d : Datapath} (hI : d.ctxI.pos = 0) (hO : d.ctxO.pos = 0) :
    (d.stretchLoop n).compressions = d.compressions + 2 * n := by
  induction n generalizing d with
  | zero => rfl
  | succ n ih =>
    obtain ⟨-, -, hI', hO', -, -, -, hcount⟩ := d.stretchStep_fields
    have hwork : hashWork 64 + 1 = 2 := rfl
    rw [Datapath.stretchLoop, ih (by rw [hI', hI]) (by rw [hO', hO]), hcount, Datapath.macTag_compressions hI hO,
      Vector.length_toList, hwork]
    omega

theorem Datapath.stretch_compressions {d : Datapath} (hI : d.ctxI.pos = 0) (hO : d.ctxO.pos = 0) (S : List Byte)
    (c : Nat) :
    (d.stretch S c).compressions = d.compressions + (hashWork S.length + 1) + 2 * (max c 1 - 1) := by
  obtain ⟨-, -, hI', hO', -, -, -, hcount⟩ := d.stretchStart_fields S
  have hpasses : c - 1 = max c 1 - 1 := by omega
  rw [Datapath.stretch, Datapath.stretchLoop_compressions _ (by rw [hI', hI]) (by rw [hO', hO]), hcount,
    Datapath.macTag_compressions hI hO, hpasses]

end Sys2Proof.Machine

/-! PROOFS. What each command leaves when it completes with E_OK and when it aborts with E_BUS, from its effect. -/

namespace Sys2Proof.Machine

/-! ### Success -/

/-- A command that passes its checks and whose accesses are admitted. -/
theorem exec_of_admitted {i : Instr} {s : State} (hok : precheck s i = .ok) (hin : InputsAdmitted i s.latch s.plat)
    (hdst : writesOutput i = true → s.plat.admitsRegion s.latch.dst = true) :
    exec i s = .next (s.after i
      { code := .ok, dp := finishedDatapath i (s.computed i), draws := s.draws
        writes := counterWrite s.latch i ++ outputWrite s.latch i (s.computed i) }) := by
  rw [exec_eq_accessEffect hok, accessEffect_of_admitted hin hdst]
  rfl

/-- A command that writes no memory changes only the data path and STATUS. -/
theorem exec_without_output {i : Instr} {s : State} (hok : precheck s i = .ok)
    (hin : InputsAdmitted i s.latch s.plat) (hout : writesOutput i = false) :
    exec i s = .next { s.complete .ok with dp := finishedDatapath i (s.computed i) } := by
  have hi : i ≠ .deriveKey := by
    rintro rfl
    cases hout
  rw [exec_of_admitted hok hin (fun h => by simp [hout] at h), State.after, counterWrite_of_ne hi, outputWrite, hout,
    State.completedWindow_of_ne _ _ hi]
  rfl

/-- The 64 bytes written at DST are read back there. -/
theorem Memory.readBytes_dst {l : Latch} (h : l.dst.inRange = true) (m : Memory) (v : Vector Byte 64) :
    (m.writeBytes l.dst.base v.toList).readBytes l.dst.base l.dst.size = v.toList := by
  have hrange : l.dst.base + v.toList.length ≤ addressSpace := by
    rw [Region.inRange_iff] at h
    simpa [Latch.dst, digestBytes, addressSpace] using h
  have hread := Memory.readBytes_writeBytes v.toList m l.dst.base hrange
  rwa [Vector.length_toList] at hread

theorem Memory.read_outside_dst {l : Latch} {a : Nat} (h : l.dst.holds a = false) (m : Memory) (v : Vector Byte 64) :
    (m.writeBytes l.dst.base v.toList).read a = m.read a :=
  Memory.read_writeBytes_of_holds_eq_false (by rwa [Latch.dst_eq])

/-- What a command that writes DST leaves, DERIVE_KEY apart: the output there and no other byte changed. -/
structure OutputWritten (i : Instr) (s t : State) : Prop where
  frame   : t = { s.complete .ok with dp := t.dp, mem := t.mem }
  dp      : t.dp = s.computed i
  output  : t.bytesAt s.latch.dst = (outputBytes i (s.computed i)).toList
  outside : ∀ a, s.latch.dst.holds a = false → t.mem.read a = s.mem.read a

theorem exec_with_output {i : Instr} {s : State} (hok : precheck s i = .ok) (hsrc : InputsAdmitted i s.latch s.plat)
    (hi : i ≠ .deriveKey) (hout : writesOutput i = true) (hdst : s.usable s.latch.dst) :
    ∃ t, exec i s = .next t ∧ OutputWritten i s t := by
  have hbuild : buildsContext i = false := by
    cases i <;> simp_all [buildsContext, writesOutput]
  refine ⟨_, exec_of_admitted hok hsrc (fun _ => hdst.2), ?_⟩
  rw [finishedDatapath_of_not_builder hbuild, ← State.complete_eq_after s _ hi hout]
  exact ⟨rfl, rfl, Memory.readBytes_dst hdst.1 s.mem _, fun a ha => Memory.read_outside_dst ha s.mem _⟩

/-- The bytes DERIVE_KEY writes after the salt (spec/43_key_stretcher.md R223). -/
theorem Memory.read_counter {l : Latch} (hsalt : l.salt.inRange = true) {a : Nat} (ha : l.counter.holds a = true)
    (m : Memory) : (m.writeBytes l.counter.base counterBytes).read a =
      ([0x00, 0x00, 0x00, 0x01] : List Byte).getD (a - l.counter.base) 0 := by
  simp only [Region.holds, Bool.and_eq_true, decide_eq_true_eq] at ha
  obtain ⟨i, rfl⟩ := Nat.exists_eq_add_of_le ha.1
  have hi : i < counterBytes.length := by
    rw [counterBytes_eq]
    simpa [Latch.counter] using ha.2
  have hrange : l.counter.base + counterBytes.length ≤ addressSpace := by
    rw [Region.inRange_iff] at hsalt
    rw [counterBytes_eq]
    simp only [Latch.salt, Latch.counter, List.length_cons, List.length_nil, addressSpace] at hsalt ⊢
    omega
  rw [Memory.read_writeBytes_inside _ _ _ _ hi hrange, Nat.add_sub_cancel_left, counterBytes_eq]

theorem Memory.read_outside_counter {l : Latch} {a : Nat} (h : l.counter.holds a = false) (m : Memory) :
    (m.writeBytes l.counter.base counterBytes).read a = m.read a :=
  Memory.read_writeBytes_of_holds_eq_false (by rwa [Latch.counter_eq])

theorem Memory.readBytes_add (m : Memory) (a j k : Nat) :
    m.readBytes a (j + k) = m.readBytes a j ++ m.readBytes (a + j) k := by
  simp only [Memory.readBytes, List.range_add, List.map_append, List.map_map]
  congr 1
  refine List.map_congr_left fun i _ => ?_
  simp [Nat.add_assoc]

/-- DERIVE_KEY reads back the salt with the counter after it (spec/43_key_stretcher.md R223). -/
theorem State.framedSalt_of_inRange {s : State} (h : s.latch.salt.inRange = true) : s.framedSalt =
    s.mem.readBytes s.latch.auxAddr.toNat s.latch.auxLen.toNat ++ [0x00, 0x00, 0x00, 0x01] := by
  have hrange : s.latch.counter.base + counterBytes.length ≤ addressSpace := by
    rw [Region.inRange_iff] at h
    rw [counterBytes_eq]
    simp only [Latch.salt, Latch.counter, List.length_cons, List.length_nil, addressSpace] at h ⊢
    omega
  have hcounter := Memory.readBytes_writeBytes counterBytes s.mem s.latch.counter.base hrange
  have hsalt : (s.mem.writeBytes s.latch.counter.base counterBytes).readBytes s.latch.auxAddr.toNat
      s.latch.auxLen.toNat = s.mem.readBytes s.latch.auxAddr.toNat s.latch.auxLen.toNat := by
    refine Memory.readBytes_congr (r := ⟨s.latch.auxAddr.toNat, s.latch.auxLen.toNat⟩) fun a ha => ?_
    refine Memory.read_outside_counter ?_ s.mem
    simp only [Region.holds, Bool.and_eq_true, decide_eq_true_eq] at ha
    simp only [Region.holds, Latch.counter, Nat.not_le_of_lt ha.2, decide_false, Bool.false_and]
  rw [State.framedSalt_eq, Latch.salt, Memory.readBytes_add, hsalt]
  rw [counterBytes_eq] at hcounter ⊢
  exact congrArg _ hcounter

/-! ### The checks passed -/

theorem precheck_ne_bus (s : State) (i : Instr) : precheck s i ≠ .bus := by
  unfold precheck
  split_ifs <;> decide

/-- A command that passes its checks passed each of them. -/
structure ChecksPass (i : Instr) (s : State) : Prop where
  notFinalized : finalizedMisuse s i = false
  context      : contextMissing s i = false
  length       : lengthExceeded s i = false
  capacity     : saltCapacityShort s i = false
  regions      : ∀ r ∈ operandRegions s.latch i, r.inRange = true

theorem checksPass_iff (s : State) (i : Instr) : precheck s i = .ok ↔ ChecksPass i s := by
  rw [precheck_eq]
  constructor
  · intro h
    split_ifs at h with hfsm hctx hlen hcap hregions
    exact ⟨by simpa using hfsm, by simpa using hctx, by simpa using hlen, by simpa using hcap,
      by simpa using hregions⟩
  · rintro ⟨hfsm, hctx, hlen, hcap, hregions⟩
    rw [if_neg (by simp [hfsm]), if_neg (by simp [hctx]), if_neg (by simp [hlen]), if_neg (by simp [hcap]),
      if_pos (by simpa using hregions)]

theorem State.bytesAt_src_length (s : State) : (s.bytesAt s.latch.src).length = s.latch.srcLen.toNat := by
  rw [State.bytesAt, Memory.readBytes_length]
  rfl

theorem State.bytesAt_src_length_lt (s : State) : (s.bytesAt s.latch.src).length < 2 ^ 32 := by
  rw [State.bytesAt_src_length]
  exact s.latch.srcLen.isLt

/-! ### The statements on success -/

/-- Settles O37. -/
theorem hashInitCompletes : Obligations.HashInitCompletes := by
  refine ⟨fun e s => ⟨_, exec_hashInit e s, ?_, rfl, rfl, rfl⟩, ⟨_, rfl, by decide⟩⟩
  cases e <;> rfl

/-- Settles O38. -/
theorem hashUpdateCompletes : Obligations.HashUpdateCompletes := by
  intro e s hfsm hlen hsrc
  have hok : precheck s (.hashUpdate e) = .ok := by
    rw [checksPass_iff]
    exact ⟨decide_eq_false hfsm, rfl, decide_eq_false (Nat.not_lt_of_le hlen), rfl, by simpa [operandRegions] using hsrc.1⟩
  refine ⟨_, exec_without_output hok (.of_source nofun hsrc.2) rfl, rfl, ?_⟩
  have hspec := (s.dp.lane e).absorb_spec (s.bytesAt s.latch.src)
  have hbytes := s.bytesAt_src_length
  have hdp : finishedDatapath (.hashUpdate e) (s.computed (.hashUpdate e)) =
      s.dp.onEngine e (Lane.absorb (s.bytesAt s.latch.src)) := rfl
  dsimp only
  rw [hdp, Datapath.onEngine_engine]
  refine ⟨rfl, ?_, hspec.fsm, fun e' he => Datapath.onEngine_engine_ne he _ _, ?_, ?_, ?_, fun hempty => ?_⟩
  · rw [hspec.size, hbytes, Datapath.lane_eng, BitVec.toNat_add, BitVec.toNat_ofNat, Nat.add_mod_mod]
    exact Nat.mod_eq_of_lt (by omega)
  · exact Datapath.onEngine_ctxI _ _ _
  · exact Datapath.onEngine_ctxO _ _ _
  · exact Datapath.onEngine_ctxValid _ _ _
  · have hnil : s.bytesAt s.latch.src = [] := List.length_eq_zero_iff.mp (by rw [hbytes, hempty]; rfl)
    obtain ⟨hh, hpos, hsize, hbuffered⟩ := (s.dp.lane e).absorb_nil
    rw [hnil]
    exact ⟨hh, hpos, hsize, hbuffered⟩

/-- Settles O39. -/
theorem hashFinalizeCompletes : Obligations.HashFinalizeCompletes := by
  intro e s hfsm hdst
  have hok : precheck s (.hashFinalize e) = .ok := by
    rw [checksPass_iff]
    exact ⟨decide_eq_false hfsm, rfl, rfl, rfl, by simpa [operandRegions] using hdst.1⟩
  obtain ⟨t, hx, hframe, hdp, hout, houtside⟩ :=
    exec_with_output hok (.of_no_source (i := .hashFinalize e) rfl) nofun rfl hdst
  have hdp' : t.dp = s.dp.onEngine e Lane.finalize := hdp
  refine ⟨t, hx, hframe, ?_, ?_, ?_, houtside, ?_, ?_, ?_, ?_⟩
  · rw [hdp', Datapath.onEngine_engine]
  · rw [hout]
    exact congrArg _ (Datapath.digest_onEngine _ _ _)
  · rw [hdp', Datapath.onEngine_engine, (Lane.finalize_spec _).fsm]
  · intro e' he
    rw [hdp', Datapath.onEngine_engine_ne he]
  · rw [hdp', Datapath.onEngine_ctxI]
  · rw [hdp', Datapath.onEngine_ctxO]
  · rw [hdp', Datapath.onEngine_ctxValid]

/-- Settles O40. The engine, initialised, absorbs the bytes and is finalized, so that its digest is theirs. -/
theorem oneshotWritesTheSha512Digest : Obligations.OneshotWritesTheSha512Digest := by
  intro e s hsrc hdst
  have hok : precheck s (.hashOneshot e) = .ok := by
    rw [checksPass_iff]
    exact ⟨rfl, rfl, rfl, rfl, by simpa [operandRegions] using ⟨hsrc.1, hdst.1⟩⟩
  obtain ⟨t, hx, hframe, hdp, hout, houtside⟩ :=
    exec_with_output hok (.of_source (i := .hashOneshot e) nofun hsrc.2) nofun rfl hdst
  have hdp' : t.dp = s.dp.onEngine e (Lane.oneshot (s.bytesAt s.latch.src)) := hdp
  have hlen := s.bytesAt_src_length_lt
  refine ⟨t, hx, hframe, ?_, ?_, houtside, ?_, ?_, ?_, ?_⟩
  · rw [hout, ← Lane.digest_oneshot (s.dp.lane e) (by omega)]
    exact congrArg _ (Datapath.digest_onEngine _ _ _)
  · rw [hdp', Datapath.onEngine_engine, Lane.oneshot, (Lane.finalize_spec _).fsm]
  · intro e' he
    rw [hdp', Datapath.onEngine_engine_ne he]
  · rw [hdp', Datapath.onEngine_ctxI]
  · rw [hdp', Datapath.onEngine_ctxO]
  · rw [hdp', Datapath.onEngine_ctxValid]

/-- Settles O41. -/
theorem macInitBuildsTheContext : Obligations.MacInitBuildsTheContext := by
  intro s hsrc
  have hok : precheck s .macInit = .ok := by
    rw [checksPass_iff]
    exact ⟨rfl, rfl, rfl, rfl, by simpa [operandRegions] using hsrc.1⟩
  have hlen := s.bytesAt_src_length_lt
  have hdp : finishedDatapath .macInit (s.computed .macInit) = (s.dp.buildContext (s.bytesAt s.latch.src)).validate := rfl
  have hfsm := s.dp.buildContext_fsm (s.bytesAt s.latch.src)
  obtain ⟨hI, hO⟩ := s.dp.buildContext_ctx (K := s.bytesAt s.latch.src) (by omega)
  obtain ⟨hsnapI, hsnapO, -⟩ := s.dp.buildContext_snapshots (s.bytesAt s.latch.src)
  refine ⟨_, exec_without_output hok (.of_source nofun hsrc.2) rfl, rfl, ?_⟩
  dsimp only
  rw [hdp]
  exact ⟨⟨hI, hO⟩, rfl, hsnapI.symm, hsnapO.symm, hfsm .e0, hfsm .e1⟩

/-- Settles O42. -/
theorem macCloneCopiesTheSnapshots : Obligations.MacCloneCopiesTheSnapshots := by
  intro s hvalid
  rcases exec_macClone_cases s with ⟨hinvalid, -⟩ | ⟨-, hx⟩
  · simp [hvalid] at hinvalid
  · exact ⟨_, hx, rfl⟩

/-- Settles O43. -/
theorem macComputeWritesTheTag : Obligations.MacComputeWritesTheTag := by
  intro s hvalid hsrc hdst
  have hok : precheck s .macCompute = .ok := by
    rw [checksPass_iff]
    exact ⟨rfl, by simp [contextMissing, hvalid], rfl, rfl, by simpa [operandRegions] using ⟨hsrc.1, hdst.1⟩⟩
  obtain ⟨t, hx, hframe, hdp, hout, houtside⟩ :=
    exec_with_output hok (.of_source (i := .macCompute) nofun hsrc.2) nofun rfl hdst
  have hdp' : t.dp = s.dp.macTag (s.bytesAt s.latch.src) := hdp
  refine ⟨t, hx, hframe, hout, ?_, ?_, ?_, ?_, ?_, houtside⟩
  · rw [hdp']
    exact s.dp.macTag_fsm _ .e0
  · rw [hdp']
    exact s.dp.macTag_fsm _ .e1
  · rw [hdp', Datapath.macTag_ctxI]
  · rw [hdp', Datapath.macTag_ctxO]
  · rw [hdp', Datapath.macTag_ctxValid, hvalid]

/-- Settles O44. -/
theorem macTagIsHmac : Obligations.MacTagIsHmac := by
  intro K M d d' hK hM hI hO
  obtain ⟨hctxI, hctxO⟩ := d.buildContext_ctx (K := K) (by omega)
  exact Datapath.macTag_digest (hI.trans hctxI) (hO.trans hctxO) (by omega)

/-- Pieces given to E0 one after another are operations of one engine. -/
theorem Datapath.foldl_absorb (Ms : List (List Byte)) (d : Datapath) :
    Ms.foldl (fun d M => d.onEngine .e0 (Lane.absorb M)) d =
      d.onEngine .e0 fun l => Ms.foldl (fun l M => l.absorb M) l := by
  induction Ms generalizing d with
  | nil => rfl
  | cons M Ms ih =>
    rw [List.foldl_cons, ih, Datapath.onEngine_compose]
    rfl

/-- After the copy of the context and the message in pieces E0 holds the stream of MacTag's inner half. -/
theorem Datapath.streamed_inner (d : Datapath) (Ms : List (List Byte)) :
    ((((d.clone d.ctxI .e0).clone d.ctxO .e1).onEngine .e0 fun l => Ms.foldl (fun l M => l.absorb M) l).onEngine .e0
      Lane.finalize).digest .e0 = (d.macInner Ms.flatten).digest .e0 := by
  rw [Datapath.digest_onEngine, Datapath.onEngine_lane, Datapath.digest_eq, Datapath.engine_e0, Datapath.macInner_e0]
  exact congrArg Machine.digest ((Lane.absorb_pieces Ms _).trans (.absorb (.refl _) _)).finalize_h

/-- Settles O45. E0 gives the inner digest, and E1 then holds the stream of MacTag's outer half. -/
theorem streamedMacEqualsOneCommand : Obligations.StreamedMacEqualsOneCommand := by
  intro d Ms
  dsimp only
  rw [Datapath.foldl_absorb]
  have hinner := d.streamed_inner Ms
  have houter : ((((d.clone d.ctxI .e0).clone d.ctxO .e1).onEngine .e0
      fun l => Ms.foldl (fun l M => l.absorb M) l).onEngine .e0 Lane.finalize).engine .e1 = d.e1.cloneFrom d.ctxO := by
    have hne : EngineId.e1 ≠ .e0 := nofun
    rw [Datapath.onEngine_engine_ne hne, Datapath.onEngine_engine_ne hne]
    rfl
  generalize ((((d.clone d.ctxI .e0).clone d.ctxO .e1).onEngine .e0
      fun l => Ms.foldl (fun l M => l.absorb M) l).onEngine .e0 Lane.finalize) = fed at hinner houter
  rw [hinner, Datapath.digest_onEngine, Datapath.onEngine_lane, Datapath.digest_eq (d.macTag _), Datapath.engine_e1,
    Datapath.macTag_e1]
  exact congrArg digest (Engine.SameStream.absorb (.of_eq houter) _).finalize_h

/-- Settles O46. The counter and then the derived key are written, the second after the salt was read. -/
theorem deriveKeyWritesTheDerivedKey : Obligations.DeriveKeyWritesTheDerivedKey := by
  intro s hroom hsrc hsalt hdst
  have hok : precheck s .deriveKey = .ok := by
    rw [checksPass_iff]
    exact ⟨rfl, rfl, rfl, decide_eq_false (Nat.not_lt_of_le hroom),
      by simpa [operandRegions] using ⟨hsrc.1, hdst.1, hsalt.1⟩⟩
  have hcap : s.latch.auxCap.toNat < 2 ^ 32 := s.latch.auxCap.isLt
  have hlen := s.bytesAt_src_length_lt
  have hframed := State.framedSalt_of_inRange hsalt.1
  have hfsm : ∀ e, ((s.computed .deriveKey).engine e).fsm = .finalized :=
    fun e => commandDatapath_fsm (i := .deriveKey) rfl _ _ _ _
  have hkey : outputBytes .deriveKey (s.computed .deriveKey) =
      derivedKey (s.bytesAt s.latch.src) s.framedSalt s.latch.iter.toNat := by
    obtain ⟨hI, hO⟩ := s.dp.buildContext_ctx (K := s.bytesAt s.latch.src) (by omega)
    refine Datapath.stretch_acc hI hO ?_ _
    rw [hframed, List.length_append, Memory.readBytes_length, List.length_cons]
    simp
    omega
  have hx := exec_of_admitted hok (.of_all hsrc.2 (Platform.admitsRegion_counter_of_salt hsalt.2) hsalt.2)
    (fun _ => hdst.2)
  rw [outputWrite, if_pos (by rfl), counterWrite_deriveKey, hkey, hframed] at hx
  generalize derivedKey _ _ _ = v at hx ⊢
  generalize s.computed .deriveKey = d at hx hfsm
  refine ⟨_, hx, rfl, Memory.readBytes_dst hdst.1 _ v, ?_, fun a hcounter hdst' => ?_, fun a hcounter hdst' => ?_,
    hfsm .e0, hfsm .e1, rfl⟩
  · rw [State.after_win, State.completedWindow, if_pos ⟨rfl, rfl⟩, BitVec.toNat_add]
    exact Nat.mod_eq_of_lt (by simpa using by omega)
  · exact (Memory.read_outside_dst hdst' _ v).trans (Memory.read_counter hsalt.1 hcounter s.mem)
  · exact (Memory.read_outside_dst hdst' _ v).trans (Memory.read_outside_counter hcounter s.mem)

/-- A command that completes with E_OK passed its checks, had its accesses admitted and did its work. -/
theorem CommandEffect.of_ok {i : Instr} {s : State} {x : Effect} (h : CommandEffect i s x) (hx : x.code = .ok) :
    precheck s i = .ok ∧ InputsAdmitted i s.latch s.plat ∧ x.dp = finishedDatapath i (s.computed i) := by
  cases h with
  | rejected hrejected => exact absurd hx hrejected
  | sourceAborts | counterAborts | saltAborts | outputAborts => cases hx
  | succeeds hok hin => exact ⟨hok, hin, rfl⟩

/-- Settles O47. Both commands build the context from the same bytes, and the loop leaves it. -/
theorem deriveKeyLeavesThePasswordContext : Obligations.DeriveKeyLeavesThePasswordContext := by
  intro s t hx hcode
  rw [exec_eq_next_iff] at hx
  subst hx
  obtain ⟨hok, hin, hdp⟩ := (s.effect_cases .deriveKey).of_ok hcode
  have hrange : s.latch.src.inRange = true :=
    ((checksPass_iff s .deriveKey).mp hok).regions _ (by simp [operandRegions])
  have hinit : precheck s .macInit = .ok := by
    rw [checksPass_iff]
    exact ⟨rfl, rfl, rfl, rfl, by simpa [operandRegions] using hrange⟩
  obtain ⟨hI, hO, -⟩ := (s.dp.buildContext (s.bytesAt s.latch.src)).stretch_context s.framedSalt s.latch.iter.toNat
  refine ⟨_, exec_without_output hinit (.of_source nofun (hin.source rfl)) rfl, rfl, ?_, ?_, ?_, rfl⟩
  · rw [State.after_dp, hdp]
    exact hI
  · rw [State.after_dp, hdp]
    exact hO
  · rw [State.after_dp, hdp]
    rfl

/-! ### The statements on aborts, frames and work -/

/-- The data path an abort starts from: of an engine the command does not use, and of the context where it builds none,
it has what the command found. -/
theorem CommandEffect.of_bus {i : Instr} {s : State} {x : Effect} (h : CommandEffect i s x) (hx : x.code = .bus) :
    ∃ d k, x.dp = abortedDatapath i k d ∧ (∀ e, usesEngine i e = false → d.engine e = s.dp.engine e) ∧
      (buildsContext i = false →
        d.ctxI = s.dp.ctxI ∧ d.ctxO = s.dp.ctxO ∧ d.ctxValid = s.dp.ctxValid) := by
  cases h with
  | rejected => exact absurd hx (precheck_ne_bus s i)
  | sourceAborts => exact ⟨s.dp, _, rfl, fun _ _ => rfl, fun _ => ⟨rfl, rfl, rfl⟩⟩
  | counterAborts _ hi | saltAborts _ hi =>
    subst hi
    exact ⟨_, _, rfl, nofun, nofun⟩
  | outputAborts =>
    exact ⟨_, _, rfl, fun e he => commandDatapath_engine_unused he _ _ _ _, fun hi => commandDatapath_context hi _ _ _ _⟩
  | succeeds => cases hx

/-- Settles O34. -/
theorem engineStatesMoveAsTabled : Obligations.EngineStatesMoveAsTabled := by
  refine ⟨fun s t e h hturn => ?reset, fun s t e h hturn => ?host, fun i s t e hx => ?command⟩
  case reset =>
    rw [step, hturn] at h
    cases h
    cases e <;> rfl
  case host =>
    rw [step, hturn] at h
    obtain ⟨hdp, -⟩ := State.hostStep_frame h
    rw [hdp]
    rfl
  case command =>
    rw [exec_eq_next_iff] at hx
    subst hx
    rw [State.after_dp, State.after_win, State.completedWindow_errcode]
    have heffect := s.effect_cases i
    generalize s.effect i = x at heffect
    by_cases hbus : x.code = .bus
    · obtain ⟨d, k, hdp, hunused, -⟩ := heffect.of_bus hbus
      cases he : usesEngine i e
      · simp [hdp, abortedDatapath_engine_unused _ _ he, hunused e he]
      · simp [hdp, hbus, abortedDatapath_fsm _ _ he]
    by_cases hok : x.code = .ok
    · obtain ⟨-, -, hdp⟩ := heffect.of_ok hok
      rw [hdp, finishedDatapath_engine, State.computed]
      cases he : usesEngine i e
      · simp [commandDatapath_engine_unused he]
      · simp [hok, commandDatapath_fsm he]
    · cases heffect with
      | rejected => simp [hbus, hok]
      | sourceAborts | counterAborts | saltAborts | outputAborts => exact absurd rfl hbus
      | succeeds => exact absurd rfl hok

/-- Settles O18. -/
theorem busErrorAbortsTheCommand : Obligations.BusErrorAbortsTheCommand := by
  intro i s t hx hcode
  rw [exec_eq_next_iff] at hx
  have heffect := s.effect_cases i
  generalize s.effect i = x at hx heffect
  subst hx
  rw [State.after_win, State.completedWindow_errcode] at hcode
  have hwin : s.completedWindow i x.code = s.win.complete .bus := by
    rw [hcode, State.completedWindow_of_ne_ok _ _ (by decide)]
  obtain ⟨d, k, hdp, hunused, hcontext⟩ := heffect.of_bus hcode
  refine ⟨fun e he => ?used, fun e he => ?unused, fun hi => ?context, fun hi => ?invalid, ?frame, ?auxLen,
    fun a ha => Memory.read_writeAll_outside heffect.writesWithin ha s.mem, fun hsrc hread => ?source,
    fun hi hearly a ha => ?beforeOutput, fun hi hsrc hcounter a ha hlate => ?counter⟩
  case used => rw [State.after_dp, hdp, abortedDatapath_fsm k d he]
  case unused => rw [State.after_dp, hdp, abortedDatapath_engine_unused k d he, hunused e he]
  case context =>
    obtain ⟨hI, hO, hvalid⟩ := abortedDatapath_context k d hi
    obtain ⟨hI', hO', hvalid'⟩ := hcontext hi
    rw [State.after_dp, hdp]
    exact ⟨hI.trans hI', hO.trans hO', hvalid.trans hvalid'⟩
  case invalid => rw [State.after_dp, hdp, abortedDatapath_ctxValid k d hi]
  case frame => rw [State.after, hwin]
  case auxLen => rw [State.after_win, hwin, Window.complete_auxLen]
  case source =>
    rw [src_mem_readSet_iff] at hsrc
    cases heffect with
    | rejected | sourceAborts => rfl
    | counterAborts _ _ hadmits | saltAborts _ _ hadmits => simp [hadmits] at hread
    | outputAborts _ hin => simp [hin.source hsrc] at hread
    | succeeds => cases hcode
  case beforeOutput =>
    subst hi
    cases heffect with
    | rejected | sourceAborts => rfl
    | counterAborts =>
      exact Memory.read_writeBytes_of_holds_eq_false (by rwa [drawnWrite_region])
    | saltAborts => exact Memory.read_outside_counter ha s.mem
    | outputAborts _ hin => simp [hin.counter rfl, hin.salt rfl] at hearly
    | succeeds => cases hcode
  case counter =>
    subst hi
    cases heffect with
    | rejected => exact absurd hcode (precheck_ne_bus s .deriveKey)
    | sourceAborts _ _ hadmits => simp [hsrc] at hadmits
    | counterAborts _ _ _ hadmits => simp [hcounter] at hadmits
    | saltAborts hok =>
      have hsalt := ((checksPass_iff s _).mp hok).regions s.latch.salt (by simp [operandRegions])
      exact Memory.read_counter hsalt ha s.mem
    | outputAborts hok hin =>
      have hsalt := ((checksPass_iff s _).mp hok).regions s.latch.salt (by simp [operandRegions])
      have hdst : s.latch.dst.holds a = false := by simpa [hin.salt rfl] using hlate
      exact (Memory.read_writeBytes_of_holds_eq_false (by rwa [drawnWrite_region])).trans
        (Memory.read_counter hsalt ha s.mem)
    | succeeds => cases hcode

/-! ### The engine a HASH_* command does not use -/

section UnusedEngine
variable {i : Instr} {e : EngineId} (y : Engine) (d : Datapath)

theorem Datapath.onEngine_setEngine_of_ne {e' : EngineId} (h : e' ≠ e) (f : Lane → Lane) :
    (d.setEngine e y).onEngine e' f = (d.onEngine e' f).setEngine e y := by
  cases e <;> cases e'
  case e0.e1 | e1.e0 => rfl
  case e0.e0 | e1.e1 => exact absurd rfl h

theorem commandDatapath_setEngine (h : usesEngine i e = false) (src salt : List Byte) (n : Nat) :
    commandDatapath i src salt n (d.setEngine e y) = (commandDatapath i src salt n d).setEngine e y := by
  cases i with
  | hashInit x | hashUpdate x | hashFinalize x | hashOneshot x =>
    exact Datapath.onEngine_setEngine_of_ne y d (of_decide_eq_false h) _
  | macInit | macClone | macCompute | deriveKey => cases h

theorem abortedDatapath_setEngine (h : usesEngine i e = false) (k : Nat) :
    abortedDatapath i k (d.setEngine e y) = (abortedDatapath i k d).setEngine e y := by
  cases i with
  | hashInit x | hashUpdate x | hashFinalize x | hashOneshot x =>
    have hne := of_decide_eq_false h
    cases e <;> cases x
    case e0.e1 | e1.e0 => rfl
    case e0.e0 | e1.e1 => exact absurd rfl hne
  | macInit | macClone | macCompute | deriveKey => cases h

theorem outputBytes_setEngine (h : usesEngine i e = false) :
    outputBytes i (d.setEngine e y) = outputBytes i d := by
  cases i with
  | hashFinalize x | hashOneshot x =>
    rw [outputBytes, outputBytes, Datapath.digest, Datapath.digest,
      Datapath.engine_setEngine_ne (of_decide_eq_false h)]
  | hashInit x | hashUpdate x => rfl
  | macInit | macClone | macCompute | deriveKey => cases h

theorem precheck_setEngine (h : usesEngine i e = false) (s : State) :
    precheck { s with dp := s.dp.setEngine e y } i = precheck s i := by
  cases i with
  | hashInit x => rfl
  | hashUpdate x | hashFinalize x | hashOneshot x =>
    have hne := of_decide_eq_false h
    cases e <;> cases x
    case e0.e1 | e1.e0 => rfl
    case e0.e0 | e1.e1 => exact absurd rfl hne
  | macInit | macClone | macCompute | deriveKey => cases h

theorem accessEffect_setEngine (h : usesEngine i e = false) (l : Latch) (p : Platform) (k : Nat)
    (src salt : List Byte) :
    accessEffect i l p k (d.setEngine e y) src salt =
      { accessEffect i l p k d src salt with dp := (accessEffect i l p k d src salt).dp.setEngine e y } := by
  have hbuild : buildsContext i = false := by
    cases i with
    | hashInit | hashUpdate | hashFinalize | hashOneshot => rfl
    | macInit | macClone | macCompute | deriveKey => cases h
  have hderive : i ≠ .deriveKey := by
    rintro rfl
    cases h
  simp only [accessEffect, hderive, false_and, if_false, finishedDatapath_of_not_builder hbuild,
    commandDatapath_setEngine y d h, Effect.abort, abortedDatapath_setEngine y _ h, outputWrite,
    outputBytes_setEngine y _ h]
  split_ifs <;> rfl

end UnusedEngine

/-- Settles O51. -/
theorem hashCommandsKeepToTheirEngine : Obligations.HashCommandsKeepToTheirEngine := by
  intro i e s y h
  have heffect : { s with dp := s.dp.setEngine e y }.effect i =
      { s.effect i with dp := (s.effect i).dp.setEngine e y } := by
    rw [State.effect, State.effect, precheck_setEngine y h]
    split_ifs
    · exact accessEffect_setEngine y _ h _ _ _ _ _
    · rfl
  refine ⟨_, exec_eq_effect i s, ?_, ?_⟩
  · have hcases := s.effect_cases i
    rw [State.after_dp]
    generalize s.effect i = x at hcases
    cases hcases with
    | rejected => rfl
    | sourceAborts => exact abortedDatapath_engine_unused _ _ h
    | counterAborts _ hi | saltAborts _ hi => subst hi; cases h
    | outputAborts => exact (abortedDatapath_engine_unused _ _ h).trans (commandDatapath_engine_unused h _ _ _ _)
    | succeeds => exact (finishedDatapath_engine _ _ _).trans (commandDatapath_engine_unused h _ _ _ _)
  · rw [exec_eq_effect, heffect]
    rfl

/-! ### Work -/

theorem State.framedSalt_length (s : State) : s.framedSalt.length = s.latch.auxLen.toNat + 4 := by
  rw [State.framedSalt_eq, Memory.readBytes_length]
  rfl

/-- The compressions of what a command computes (spec/70_reset_and_hazards.md R291). -/
theorem State.computed_compressions {s : State} {i : Instr} (hok : precheck s i = .ok) (hctx : s.dp.contextSound) :
    (s.computed i).compressions = s.dp.compressions + commandWork s i := by
  have hlen := s.bytesAt_src_length
  cases i with
  | hashInit e => exact Datapath.onEngine_compressions _ _ _
  | hashUpdate e =>
    rw [State.computed, commandDatapath, Datapath.onEngine_compressions, (Lane.absorb_spec _ _).count,
      Engine.streamBlocks, hlen]
    rfl
  | hashFinalize e =>
    rw [State.computed, commandDatapath, Datapath.onEngine_compressions, (Lane.finalize_spec _).count]
    rfl
  | hashOneshot e =>
    rw [State.computed, commandDatapath, Datapath.onEngine_compressions, Lane.oneshot,
      Lane.count_absorb_finalize (by rfl), hlen]
    rfl
  | macInit =>
    rw [State.computed, commandDatapath, Datapath.buildContext_compressions, hlen]
    rfl
  | macClone =>
    rw [State.computed, commandDatapath, Datapath.clone_compressions, Datapath.clone_compressions]
    rfl
  | macCompute =>
    have hvalid : s.dp.ctxValid = true := by simpa [contextMissing] using ((checksPass_iff s _).mp hok).context
    obtain ⟨hI, -, hO, -⟩ := hctx hvalid
    rw [State.computed, commandDatapath, Datapath.macTag_compressions hI hO, hlen]
    rfl
  | deriveKey =>
    obtain ⟨hI, -, hO, -⟩ := s.dp.buildContext_pos_size (s.bytesAt s.latch.src)
    rw [State.computed, commandDatapath, Datapath.stretch_compressions hI hO, Datapath.buildContext_compressions, hlen,
      State.framedSalt_length, commandWork]
    omega

/-- Settles O52. -/
theorem commandWorkIsExact : Obligations.CommandWorkIsExact := by
  intro i s t hctx hx
  rw [exec_eq_next_iff] at hx
  subst hx
  refine ⟨fun hcode => ?_, fun hrejected => ?_⟩
  · obtain ⟨hok, -, hdp⟩ := (s.effect_cases i).of_ok hcode
    rw [State.after_dp, hdp, finishedDatapath_compressions, State.computed_compressions hok hctx]
  · rw [State.after_dp, State.effect, if_neg hrejected]

end Sys2Proof.Machine

/-! PROOFS. The register window, data memory under the host's and the DMA port's accesses, the turns of a step and reset:
the statements on these. -/

namespace Sys2Proof.Machine

/-! ### STATUS -/

section StatusWord
variable (w : Window) (fsm0 fsm1 : BitVec 2) (valid : Bool)

theorem statusWord_flags :
    (statusWord w fsm0 fsm1 valid).getLsbD 0 = w.busy ∧ (statusWord w fsm0 fsm1 valid).getLsbD 1 = w.done ∧
      (statusWord w fsm0 fsm1 valid).getLsbD 2 = w.err ∧ (statusWord w fsm0 fsm1 valid).getLsbD 3 = w.ovr := by
  unfold statusWord
  refine ⟨?_, ?_, ?_, ?_⟩
  · rw [BitVec.getLsbD_append]
    simp
  · iterate 2 rw [BitVec.getLsbD_append]
    simp
  · iterate 3 rw [BitVec.getLsbD_append]
    simp
  · iterate 4 rw [BitVec.getLsbD_append]
    simp

theorem statusWord_fsm0 : (statusWord w fsm0 fsm1 valid).extractLsb' 4 2 = fsm0 := by
  unfold statusWord
  iterate 4 rw [BitVec.extractLsb'_append_eq_of_le (by decide)]
  exact BitVec.extractLsb'_append_eq_right

theorem statusWord_fsm1 : (statusWord w fsm0 fsm1 valid).extractLsb' 6 2 = fsm1 := by
  unfold statusWord
  iterate 5 rw [BitVec.extractLsb'_append_eq_of_le (by decide)]
  exact BitVec.extractLsb'_append_eq_right

theorem statusWord_reserved_low : (statusWord w fsm0 fsm1 valid).extractLsb' 9 7 = 0 := by
  unfold statusWord
  iterate 7 rw [BitVec.extractLsb'_append_eq_of_le (by decide)]
  exact BitVec.extractLsb'_append_eq_right

theorem statusWord_errcode : (statusWord w fsm0 fsm1 valid).extractLsb' 16 8 = w.errcode.value := by
  unfold statusWord
  iterate 8 rw [BitVec.extractLsb'_append_eq_of_le (by decide)]
  exact BitVec.extractLsb'_append_eq_right

theorem statusWord_reserved_high : (statusWord w fsm0 fsm1 valid).extractLsb' 24 8 = 0 := by
  unfold statusWord
  iterate 9 rw [BitVec.extractLsb'_append_eq_of_le (by decide)]
  rfl

end StatusWord

/-- A read of STATUS while BUSY = 0. -/
theorem State.readStatus_idle {s : State} (h : s.win.busy = false) : s.readStatus = (s.status, s) := by
  rw [State.readStatus, if_neg (by simp [h])]

/-- A read of STATUS answers the window's fields, with some values in the FSM fields and CTX_VALID
(spec/10_state.md R25). -/
theorem State.readStatus_eq_statusWord (s : State) :
    ∃ fsm0 fsm1 valid, s.readStatus.1 = statusWord s.win fsm0 fsm1 valid := by
  unfold State.readStatus
  split
  · exact ⟨_, _, _, rfl⟩
  · exact ⟨_, _, _, rfl⟩

/-- What a read of STATUS depends on. -/
theorem State.readStatus_congr {s t : State} (hbusy : t.win.busy = s.win.busy)
    (hword : ∀ fsm0 fsm1 valid, statusWord t.win fsm0 fsm1 valid = statusWord s.win fsm0 fsm1 valid)
    (hfsm0 : t.dp.e0.fsm = s.dp.e0.fsm) (hfsm1 : t.dp.e1.fsm = s.dp.e1.fsm) (hvalid : t.dp.ctxValid = s.dp.ctxValid)
    (hdraws : t.draws = s.draws) :
    t.readStatus.1 = s.readStatus.1 ∧ t.readStatus.2.draws = s.readStatus.2.draws := by
  unfold State.readStatus State.status
  rw [hbusy, hword, hword, hfsm0, hfsm1, hvalid, hdraws]
  split
  · exact ⟨rfl, rfl⟩
  · exact ⟨rfl, hdraws⟩

/-- Bit 0 of a read of STATUS is BUSY. -/
theorem State.readStatus_busy (s : State) : s.readStatus.1.getLsbD 0 = s.win.busy := by
  obtain ⟨fsm0, fsm1, valid, hv⟩ := s.readStatus_eq_statusWord
  rw [hv]
  exact (statusWord_flags _ _ _ _).1

/-! ### The window -/

theorem Reg.offset_lt (r : Reg) : r.offset < 0x2C := by
  cases r <;> decide

theorem Reg.offset_mod_four (r : Reg) : r.offset % 4 = 0 := by
  cases r <;> rfl

/-- No register stands at the reserved offsets (spec/10_state.md R21). -/
theorem Reg.at?_of_reserved {off : Nat} (h : 0x2C ≤ off) : Reg.at? off = none := by
  cases hr : Reg.at? off with
  | none => rfl
  | some r =>
    have hlt := r.offset_lt
    rw [← Reg.at?_eq_some_iff.mp hr] at hlt
    omega

section Window
variable (s : State) (v : Word32) {off : Nat}

theorem Platform.windowOffset_aligned (p : Platform) (hoff : off < 256) (h : off % 4 = 0) :
    p.windowOffset (p.regBase + off) .word = .ok off := by
  rw [Platform.windowOffset_ok_iff]
  exact ⟨rfl, by omega, by omega, by simpa using h, by omega⟩

/-- A byte, halfword or misaligned access is refused (spec/10_state.md R22). -/
theorem Platform.windowOffset_refused (p : Platform) {width : Width} (hoff : off < 256)
    (h : width ≠ .word ∨ off % 4 ≠ 0) :
    p.windowOffset (p.regBase + off) width = .error (.registerAccess (p.regBase + off)) := by
  unfold Platform.windowOffset windowBytes
  rw [if_neg (by omega), if_pos (by simpa using h)]

theorem State.hostRegRead_aligned (hoff : off < 256) (h : off % 4 = 0) :
    s.hostRegRead (s.plat.regBase + off) .word =
      .next ((s.readReg (Reg.at? off)).2.got (.reg (s.plat.regBase + off) (s.readReg (Reg.at? off)).1)) := by
  rw [State.hostRegRead, s.plat.windowOffset_aligned hoff h]

theorem State.hostRegWrite_aligned (hoff : off < 256) (h : off % 4 = 0) :
    s.hostRegWrite (s.plat.regBase + off) .word v = .next (s.writeReg (Reg.at? off) v) := by
  rw [State.hostRegWrite, s.plat.windowOffset_aligned hoff h]

end Window

/-! ### The running command's footprint -/

section Running
variable {s : State}

theorem State.runningReadSet_of_command {i : Instr} (hbusy : s.win.busy = true) (hcmd : decode s.latch.cmd = .command i) :
    s.runningReadSet = readSet s.latch i := by
  rw [State.runningReadSet, if_pos hbusy, hcmd]

theorem State.runningWriteSet_of_command {i : Instr} (hbusy : s.win.busy = true)
    (hcmd : decode s.latch.cmd = .command i) : s.runningWriteSet = writeSet s.latch i := by
  rw [State.runningWriteSet, if_pos hbusy, hcmd]

/-- With no command running, or an illegal word latched, there is no footprint (spec/20_memory.md R72; log 15). -/
theorem State.running_of_none (h : s.win.busy = false ∨ ∃ why, decode s.latch.cmd = .illegal why) :
    s.runningReadSet = [] ∧ s.runningWriteSet = [] := by
  unfold State.runningReadSet State.runningWriteSet
  rcases h with hidle | ⟨why, hcmd⟩
  · simp [hidle]
  · simp [hcmd]

variable {a : Word32} (b : Byte) (ha : s.plat.admits a.toNat = true)
include ha

theorem State.hostMemRead_plain (h : anyHolds s.runningWriteSet a.toNat = false) :
    s.hostMemRead a = .next (s.got (.mem a (s.mem.read a.toNat))) := by
  rw [State.hostMemRead, if_neg (by simp [ha]), if_neg (by simp [h])]

theorem State.hostMemRead_drawn (h : anyHolds s.runningWriteSet a.toNat = true) :
    s.hostMemRead a = .next ({ s with draws := s.draws + 1 }.got (.mem a (Config.free Byte s.draws))) := by
  rw [State.hostMemRead, if_neg (by simp [ha]), if_pos h]

theorem State.hostMemWrite_plain (h : anyHolds (s.runningReadSet ++ s.runningWriteSet) a.toNat = false) :
    s.hostMemWrite a b = .next { s with mem := s.mem.write a.toNat b } := by
  rw [State.hostMemWrite, if_neg (by simp [ha]), if_neg (by simp [h])]

theorem State.hostMemWrite_race (h : anyHolds (s.runningReadSet ++ s.runningWriteSet) a.toNat = true) :
    s.hostMemWrite a b = .fault (.memRace a.toNat) := by
  rw [State.hostMemWrite, if_neg (by simp [ha]), if_pos h]

end Running

/-! ### Turns -/

section Turns
variable {s : State}

theorem step_of_host (h : s.nextTurn = .host) : step s = s.popTurn.hostStep := by
  rw [step, h, State.takeTurn]

theorem step_of_engine (h : s.nextTurn = .engine) : step s = s.popTurn.engineStep := by
  rw [step, h, State.takeTurn]

theorem step_of_reset (h : s.nextTurn = .reset) : step s = .next s.popTurn.resetEvent := by
  rw [step, h, State.takeTurn]

theorem State.engineStep_of_command {i : Instr} (hbusy : s.win.busy = true) (hcmd : decode s.latch.cmd = .command i) :
    s.engineStep = exec i s := by
  rw [State.engineStep, if_pos hbusy, hcmd]

theorem State.engineStep_idle (hidle : s.win.busy = false) : s.engineStep = .next s := by
  rw [State.engineStep, if_neg (by simp [hidle])]

/-- What a poll of `wait` leaves (spec/30_encoding.md R99). -/
theorem State.hostPoll_eq (s : State) : s.hostPoll = { s with
    host := { s.host with
      ops := if s.readStatus.1.getLsbD 0 then s.host.ops else s.host.ops.tail
      reads := .reg (s.plat.regBase + Reg.status.offset) s.readStatus.1 :: s.host.reads }
    draws := s.readStatus.2.draws } := by
  obtain ⟨n, hn⟩ := s.readStatus_frame
  unfold State.hostPoll
  generalize s.readStatus = read at hn
  obtain ⟨v, s'⟩ := read
  obtain rfl : s' = { s with draws := n } := hn
  dsimp only
  cases v.getLsbD 0 <;> rfl

/-- Taking a turn off the schedule changes no read of STATUS. -/
theorem State.readStatus_popTurn (s : State) :
    s.popTurn.readStatus.1 = s.readStatus.1 ∧ s.popTurn.readStatus.2.draws = s.readStatus.2.draws :=
  State.readStatus_congr rfl (fun _ _ _ => rfl) rfl rfl rfl rfl

end Turns

/-! ### The statements -/

/-- Settles O2. -/
theorem wordsOfTheOpcodeMapDecode : Obligations.WordsOfTheOpcodeMapDecode := by
  unfold Obligations.WordsOfTheOpcodeMapDecode
  decide

/-- Settles O6. -/
theorem statusReadReturnsItsFields : Obligations.StatusReadReturnsItsFields := by
  refine ⟨fun s hflags => ?fields, by decide, by decide, by decide⟩
  rw [show Reg.at? 0x08 = some .status from Reg.at?_offset .status]
  have hidle : s.win.busy = false → s.readStatus.1 = s.status := fun h => by rw [State.readStatus_idle h]
  obtain ⟨fsm0, fsm1, valid, hv⟩ := s.readStatus_eq_statusWord
  obtain ⟨hbusy, hdone, herr, hovr⟩ := statusWord_flags s.win fsm0 fsm1 valid
  dsimp only [State.readReg]
  rw [hv] at hidle ⊢
  refine ⟨hbusy, hdone, herr, hovr, statusWord_errcode .., statusWord_reserved_low .., statusWord_reserved_high ..,
    fun h => ?_, fun h => ?_⟩
  · obtain ⟨hdone', herr', hcode⟩ := hflags.1 h
    rw [hdone, herr, statusWord_errcode, hcode]
    exact ⟨hdone', herr', rfl⟩
  · rw [hidle h, State.status]
    exact ⟨statusWord_fsm0 .., statusWord_fsm1 .., statusWord_getLsbD_ctxValid ..⟩

/-- Settles O9. -/
theorem operandRegistersHoldEveryValue : Obligations.OperandRegistersHoldEveryValue := by
  intro s r v hr
  simp only [List.mem_cons, List.not_mem_nil, or_false] at hr
  rcases hr with rfl | rfl | rfl | rfl | rfl | rfl | rfl
  all_goals
    refine ⟨rfl, fun r' hr' => ?_, rfl⟩
    cases r'
    case status =>
      change (State.readStatus _).1 = s.readStatus.1
      refine (State.readStatus_congr ?_ (fun _ _ _ => ?_) ?_ ?_ ?_ ?_).1 <;> rfl
    all_goals simp [State.readReg, State.writeReg, Window.ctrl] at hr' ⊢

/-- Settles O10. -/
theorem windowTakesOnlyAlignedWords : Obligations.WindowTakesOnlyAlignedWords := by
  refine ⟨?map, Reg.at?_offset, fun s r v => ?registers, fun s off width v hoff => ⟨fun hbad => ?refused, ?aligned⟩⟩
  case map =>
    exact ⟨rfl, rfl, rfl, rfl, rfl, rfl, rfl, rfl, rfl, rfl, rfl, fun off => Reg.at?_of_reserved⟩
  case registers =>
    have hlt : r.offset < 256 := Nat.lt_trans r.offset_lt (by decide)
    dsimp only
    rw [s.hostRegRead_aligned hlt r.offset_mod_four, s.hostRegWrite_aligned v hlt r.offset_mod_four, Reg.at?_offset]
    exact ⟨rfl, rfl⟩
  case refused =>
    rw [State.hostRegRead, State.hostRegWrite, s.plat.windowOffset_refused hoff hbad]
    exact ⟨rfl, rfl⟩
  case aligned =>
    rintro rfl halign
    rw [s.hostRegRead_aligned hoff halign, s.hostRegWrite_aligned v hoff halign]
    refine ⟨fun hreserved => ?_, ?_, ?_, ?_⟩
    · rw [Reg.at?_of_reserved hreserved]
      exact ⟨rfl, rfl⟩
    · rintro rfl
      rfl
    · rintro rfl
      rfl
    · obtain ⟨n, hn⟩ := s.readReg_frame (Reg.at? off)
      rw [hn]
      exact ⟨_, _, rfl, rfl, rfl, rfl, rfl, rfl, rfl, rfl, rfl⟩

/-- A byte string is the bytes of a region exactly when it has its length and, address by address, its bytes. -/
theorem Memory.readBytes_eq_iff (m : Memory) (r : Region) (B : List Byte) :
    m.readBytes r.base r.size = B ↔
      B.length = r.size ∧ ∀ i, i < r.size → B.getD i 0 = m.read (r.base + i) := by
  constructor
  · rintro rfl
    exact ⟨m.readBytes_length _ _, fun i hi => m.readBytes_getD _ _ i hi⟩
  · rintro ⟨hlen, hbytes⟩
    apply List.ext_getElem (by simp [hlen])
    intro i _ hi
    have hbyte := hbytes i (by omega)
    rw [List.getD_eq_getElem _ _ hi] at hbyte
    simp [Memory.readBytes, hbyte]

theorem Platform.admitsRegion_eq_false_iff (p : Platform) (r : Region) :
    p.admitsRegion r = false ↔ ∃ i, i < r.size ∧ p.admits (r.base + i) = false := by
  rw [← Bool.not_eq_true, Platform.admitsRegion_iff]
  simp

/-- Settles O19. -/
theorem memReadReturnsTheBytes : Obligations.MemReadReturnsTheBytes := by
  intro s r
  refine ⟨fun B => ?_, ?_, s.memRead_of_empty⟩
  · rw [← Platform.admitsRegion_iff, ← Memory.readBytes_eq_iff]
    rcases s.memRead_cases r with ⟨hadmits, hread⟩ | ⟨hadmits, hread⟩ <;> simp [hadmits, hread]
  · rw [← Platform.admitsRegion_eq_false_iff]
    rcases s.memRead_cases r with ⟨hadmits, hread⟩ | ⟨hadmits, hread⟩ <;> simp [hadmits, hread]

/-- Settles O20. -/
theorem memWriteStoresTheBytes : Obligations.MemWriteStoresTheBytes := by
  intro s a B hrange
  refine ⟨fun hall => ?_, fun hsome => ?_⟩
  · have hadmits : s.plat.admitsRegion ⟨a, B.length⟩ = true := (Platform.admitsRegion_iff _ _).mpr hall
    refine ⟨{ s with mem := s.mem.writeBytes a B }, if_pos hadmits, rfl, fun i hi => ?_, fun x hx => ?_⟩
    · exact Memory.read_writeBytes_inside B s.mem a i hi hrange
    · exact Memory.read_writeBytes_outside B s.mem a x hx
  · have hadmits : s.plat.admitsRegion ⟨a, B.length⟩ = false := (Platform.admitsRegion_eq_false_iff _ _).mpr hsome
    refine ⟨s.drawRegion ⟨a, B.length⟩, if_neg (by simp [hadmits]), rfl, fun x hx => ?_⟩
    exact Memory.read_writeBytes_outside _ _ _ _ (by simpa using hx)

/-- Settles O23. -/
theorem hostAccessesDuringBusyAreGuarded : Obligations.HostAccessesDuringBusyAreGuarded := by
  refine ⟨fun s a b ha hnone => ?plain, fun s a b => ⟨Memory.read_write_self _ _ _, fun x hx => ?other⟩,
    fun s i a b hbusy hcmd ha => ?running⟩
  case plain =>
    obtain ⟨hread, hwrite⟩ := State.running_of_none hnone
    exact ⟨State.hostMemRead_plain ha (by rw [hwrite]; rfl), State.hostMemWrite_plain b ha (by rw [hread, hwrite]; rfl)⟩
  case other => exact Memory.read_write_ne _ hx _
  case running =>
    rw [← State.runningReadSet_of_command hbusy hcmd, ← State.runningWriteSet_of_command hbusy hcmd]
    refine ⟨State.hostMemWrite_race b ha, State.hostMemWrite_plain b ha, fun hdrawn => ?_, State.hostMemRead_plain ha⟩
    exact ⟨_, _, State.hostMemRead_drawn ha hdrawn, rfl, rfl⟩

/-- Settles O54. Only the write set of the running command is made unspecified. -/
theorem resetAbandonsTheRunningCommand : Obligations.ResetAbandonsTheRunningCommand := by
  intro s hbusy hturn
  have hmem : s.popTurn.resetEvent.mem = (State.drawRegions s.popTurn.runningWriteSet s.popTurn).mem := rfl
  refine ⟨_, step_of_reset hturn, rfl, rfl, rfl, rfl, fun i a hcmd ha => ?_, fun why hcmd => ?_⟩
  · rw [hmem, State.runningWriteSet_of_command (s := s.popTurn) hbusy hcmd]
    exact State.drawRegions_read_outside _ s.popTurn a ha
  · rw [hmem, (State.running_of_none (s := s.popTurn) (.inr ⟨why, hcmd⟩)).2]
    rfl

/-- Settles O56. -/
theorem stepRunsTheLatchedCommand : Obligations.StepRunsTheLatchedCommand := by
  refine ⟨?command, ?placed, ?idle, ?illegal, ?hostOp, State.readStatus_busy, ?noOp, fun s => step_of_reset, ?listed,
    ?unlisted⟩
  case command =>
    intro s i hturn hbusy hcmd
    rw [step_of_engine hturn, State.engineStep_of_command (s := s.popTurn) hbusy hcmd]
  case placed =>
    intro s i w hcmd
    have hword : BitVec.ofNat 32 (w.toNat % 2 ^ 32) = w := by
      rw [Nat.mod_eq_of_lt w.isLt, BitVec.ofNat_toNat, BitVec.setWidth_eq]
    have hturn : (s.placeCommand w).nextTurn = .engine := rfl
    have hpop : (s.placeCommand w).popTurn = s.issue w := rfl
    rw [State.withFetchWord, hword, step_of_engine hturn, hpop, State.engineStep_of_command (s := s.issue w) rfl hcmd]
  case idle =>
    intro s hturn hidle
    rw [step_of_engine hturn, State.engineStep_idle (s := s.popTurn) hidle]
  case illegal =>
    intro s why hturn hbusy hcmd
    rw [step_of_engine hturn, State.engineStep_of_illegal (s := s.popTurn) hbusy hcmd]
  case hostOp =>
    intro s op rest hturn hops
    have hpop : s.popTurn.popOp = { s with host := { s.host with sched := s.host.sched.tail, ops := rest } } := by
      rw [State.popOp, State.popTurn_host, hops]
      rfl
    have hops' : s.popTurn.host.ops = op :: rest := hops
    dsimp only
    rw [step_of_host hturn, State.hostStep, hops', ← hpop]
    cases op with
    | regRead | regWrite | memRead | memWrite => rfl
    | wait =>
      obtain ⟨hvalue, hdraws⟩ := s.readStatus_popTurn
      rw [hpop]
      dsimp only
      rw [State.hostPoll_eq, hvalue, hdraws, hops']
      rfl
  case noOp =>
    intro s hturn hops
    have hops' : s.popTurn.host.ops = [] := hops
    rw [step_of_host hturn, State.hostStep, hops']
  case listed =>
    intro s t rest hsched
    rw [State.nextTurn, hsched]
  case unlisted =>
    intro s hsched
    rw [State.nextTurn, hsched]

/-- A host step while a command is BUSY keeps it BUSY and latched. -/
theorem State.hostStep_busy {s t : State} (h : s.hostStep = .next t) (hbusy : s.win.busy = true) :
    t.win.busy = true ∧ t.latch = s.latch := by
  rcases State.hostStep_cases h with ⟨m, n, hs, rfl, -⟩ | ⟨_, _, v, _, off, _, _, rfl⟩
  · exact ⟨hbusy, rfl⟩
  · rcases Reg.at? off with _ | r
    · exact ⟨hbusy, rfl⟩
    cases r
    case cmd =>
      rw [State.writeReg, State.writeCmd, if_pos (by exact hbusy)]
      exact ⟨hbusy, rfl⟩
    all_goals exact ⟨hbusy, rfl⟩

/-- Settles O57, by induction on the host turns scheduled. -/
theorem busyCommandCompletesAfterHostTurns : Obligations.BusyCommandCompletesAfterHostTurns := by
  intro k
  induction k with
  | zero =>
    intro s hbusy hsched
    have hturn : s.nextTurn = .engine := by
      rw [State.nextTurn, hsched]
      exact if_pos hbusy
    obtain ⟨u, hu, hidle, hdone, -⟩ := State.engineStep_completes (s := s.popTurn) hbusy
    exact ⟨hbusy, rfl, u, (step_of_engine hturn).trans hu, hidle, hdone⟩
  | succ k ih =>
    intro s hbusy hsched
    have hturn : s.nextTurn = .host := by
      rw [State.nextTurn, hsched]
      rfl
    rw [runSteps]
    cases hstep : step s with
    | fault | refused => trivial
    | next t =>
      rw [step_of_host hturn] at hstep
      obtain ⟨hbusy', hlatch⟩ := State.hostStep_busy hstep hbusy
      obtain ⟨-, -, hsched'⟩ := State.hostStep_frame hstep
      have hrest : t.host.sched = List.replicate k .host := by
        rw [hsched', State.popTurn_host, hsched]
        rfl
      have hrun := ih t hbusy' hrest
      rw [hlatch] at hrun
      exact hrun

/-- Settles O58. -/
theorem resetMeetsTheInvariant : Obligations.ResetMeetsTheInvariant where
  mem := State.reset_mem_wf
  e0 := fun h => absurd rfl h
  e1 := fun h => absurd rfl h
  context := nofun
  flags := ⟨nofun, nofun⟩

end Sys2Proof.Machine

/-! PROOFS. Every step keeps the invariant: the canonical form of data memory, the engines' and the context's soundness and
the STATUS flags (spec/10_state.md R33, R34, spec/42_keyed_mac.md R190). -/

namespace Sys2Proof.Machine

/-! ### Engines -/

theorem Engine.sound_of_finalized {x : Engine} (h : x.fsm = .finalized) : x.sound :=
  fun hne => absurd h hne

/-- An engine with an empty buffer after whole blocks. -/
theorem Engine.sound_of_pos_zero {x : Engine} (hpos : x.pos = 0) (hsize : x.size = 0 ∨ x.size = 128) : x.sound := by
  intro _
  rw [hpos]
  rcases hsize with hsize | hsize <;> rw [hsize] <;> decide

/-- Absorb within SIZE_MAX moves POS with SIZE. -/
theorem Lane.absorb_sound {l : Lane} {M : List Byte} (hl : l.eng.sound) (hfsm : l.eng.fsm ≠ .finalized)
    (hlen : l.eng.size.toNat + M.length ≤ sizeMax) : (l.absorb M).eng.sound := by
  obtain ⟨-, hpos⟩ := hl hfsm
  have hsize : (l.absorb M).eng.size.toNat = l.eng.size.toNat + M.length := by
    unfold sizeMax at hlen
    rw [(l.absorb_spec M).size, BitVec.toNat_add, BitVec.toNat_ofNat, Nat.add_mod_mod]
    exact Nat.mod_eq_of_lt (by omega)
  intro _
  rw [hsize, Lane.absorb_pos, hpos, Nat.mod_add_mod]
  exact ⟨hlen, rfl⟩

/-! ### The data path -/

/-- The invariant's part on the data path. -/
structure Datapath.Sound (d : Datapath) : Prop where
  engine  : ∀ e, (d.engine e).sound
  context : d.contextSound

theorem State.Inv.sound {s : State} (h : s.Inv) : s.dp.Sound where
  engine e := by
    cases e
    · exact h.e0
    · exact h.e1
  context := h.context

/-- An engine that a command which passes its checks used. -/
theorem State.computed_engine_sound {s : State} {i : Instr} {e : EngineId} (hd : s.dp.Sound) (hok : precheck s i = .ok)
    (he : usesEngine i e = true) : ((s.computed i).engine e).sound := by
  obtain ⟨hfsm, hctx, hlen, -, -⟩ := (checksPass_iff s i).mp hok
  cases i with
  | hashFinalize | hashOneshot | macCompute | deriveKey =>
    exact Engine.sound_of_finalized (commandDatapath_fsm he _ _ _ _)
  | hashInit x =>
    obtain rfl := of_decide_eq_true he
    rw [State.computed, commandDatapath, Datapath.onEngine_engine]
    exact Engine.sound_of_pos_zero rfl (.inl rfl)
  | hashUpdate x =>
    obtain rfl := of_decide_eq_true he
    rw [State.computed, commandDatapath, Datapath.onEngine_engine]
    refine Lane.absorb_sound (hd.engine x) (of_decide_eq_false hfsm) ?_
    rw [s.bytesAt_src_length]
    exact Nat.le_of_not_lt (of_decide_eq_false hlen)
  | macInit =>
    obtain ⟨hI, hO, -⟩ := s.dp.buildContext_snapshots (s.bytesAt s.latch.src)
    obtain ⟨hposI, hsizeI, hposO, hsizeO⟩ := s.dp.buildContext_pos_size (s.bytesAt s.latch.src)
    rw [hI] at hposI hsizeI
    rw [hO] at hposO hsizeO
    cases e
    · exact Engine.sound_of_pos_zero hposI (.inr hsizeI)
    · exact Engine.sound_of_pos_zero hposO (.inr hsizeO)
  | macClone =>
    obtain ⟨hposI, hsizeI, hposO, hsizeO⟩ := hd.context (by simpa [contextMissing] using hctx)
    cases e
    · exact Engine.sound_of_pos_zero hposI (.inr hsizeI)
    · exact Engine.sound_of_pos_zero hposO (.inr hsizeO)

/-- A builder that completes leaves snapshots of one block. -/
theorem finishedDatapath_contextSound_of_builder {i : Instr} (hi : buildsContext i = true) (src salt : List Byte)
    (n : Nat) (d : Datapath) : (finishedDatapath i (commandDatapath i src salt n d)).contextSound := by
  intro _
  cases i with
  | macInit => exact d.buildContext_pos_size src
  | deriveKey =>
    obtain ⟨hI, hO, -⟩ := (d.buildContext src).stretch_context salt n
    have hsnapshots := d.buildContext_pos_size src
    rw [← hI, ← hO] at hsnapshots
    exact hsnapshots
  | hashInit | hashUpdate | hashFinalize | hashOneshot | macClone | macCompute => cases hi

/-- A context whose three registers are another's. -/
theorem Datapath.contextSound_congr {d d' : Datapath}
    (h : d'.ctxI = d.ctxI ∧ d'.ctxO = d.ctxO ∧ d'.ctxValid = d.ctxValid) (hd : d.contextSound) : d'.contextSound := by
  obtain ⟨hI, hO, hvalid⟩ := h
  rwa [Datapath.contextSound, hI, hO, hvalid]

/-- A command is rejected with the data path as it was, aborted or done. -/
theorem CommandEffect.dp_cases {i : Instr} {s : State} {x : Effect} (h : CommandEffect i s x) :
    x.dp = s.dp ∨ x.code = .bus ∨ x.code = .ok := by
  cases h with
  | rejected => exact .inl rfl
  | sourceAborts | counterAborts | saltAborts | outputAborts => exact .inr (.inl rfl)
  | succeeds => exact .inr (.inr rfl)

theorem CommandEffect.sound {i : Instr} {s : State} {x : Effect} (h : CommandEffect i s x) (hd : s.dp.Sound) :
    x.dp.Sound := by
  rcases h.dp_cases with hdp | hbus | hok
  · rwa [hdp]
  · obtain ⟨d, k, hdp, hunused, hcontext⟩ := h.of_bus hbus
    rw [hdp]
    constructor
    · intro e
      cases he : usesEngine i e
      · rw [abortedDatapath_engine_unused k d he, hunused e he]
        exact hd.engine e
      · exact Engine.sound_of_finalized (abortedDatapath_fsm k d he)
    · cases hi : buildsContext i
      · exact Datapath.contextSound_congr (abortedDatapath_context k d hi)
          (Datapath.contextSound_congr (hcontext hi) hd.context)
      · intro hvalid
        rw [abortedDatapath_ctxValid k d hi] at hvalid
        cases hvalid
  · obtain ⟨hcheck, -, hdp⟩ := h.of_ok hok
    rw [hdp]
    constructor
    · intro e
      rw [finishedDatapath_engine]
      cases he : usesEngine i e
      · rw [State.computed, commandDatapath_engine_unused he]
        exact hd.engine e
      · exact State.computed_engine_sound hd hcheck he
    · cases hi : buildsContext i
      · rw [finishedDatapath_of_not_builder hi]
        exact Datapath.contextSound_congr (commandDatapath_context hi _ _ _ _) hd.context
      · exact finishedDatapath_contextSound_of_builder hi _ _ _ _

/-! ### The window -/

theorem Window.complete_flagsSound (w : Window) (c : ErrCode) : (w.complete c).flagsSound :=
  ⟨nofun, fun h => of_decide_eq_true h⟩

/-- A register write keeps the STATUS flags in agreement. -/
theorem State.writeReg_flagsSound {s : State} (h : s.win.flagsSound) (r : Option Reg) (v : Word32) :
    (s.writeReg r v).win.flagsSound := by
  rcases r with _ | r
  · exact h
  cases r
  case status =>
    obtain ⟨hbusy, herr⟩ := h
    refine ⟨fun hb => ?_, fun he => herr (Bool.and_elim_left he)⟩
    obtain ⟨hdone, herr', hcode⟩ := hbusy hb
    exact ⟨by simp [State.writeReg, Window.writeStatus, hdone], by simp [State.writeReg, Window.writeStatus, herr'], hcode⟩
  case cmd =>
    rw [State.writeReg, State.writeCmd]
    split
    · exact h
    · exact ⟨fun _ => ⟨rfl, rfl, rfl⟩, nofun⟩
  all_goals exact h

/-! ### Steps -/

/-- A host step writes at most one byte of data memory. -/
theorem State.hostStep_mem {s t : State} (h : s.hostStep = .next t) :
    t.mem = s.mem ∨ ∃ (a : Word32) (b : Byte), t.mem = s.mem.write a.toNat b := by
  unfold State.hostStep at h
  split at h
  · cases h
    exact .inl rfl
  · unfold State.hostRegRead at h
    split at h
    · cases h
    · rename_i off _
      obtain ⟨n, hread⟩ := State.readReg_frame (Reg.at? off) s.popOp
      have hmem : (s.popOp.readReg (Reg.at? off)).2.mem = s.mem := by rw [hread, State.popOp]
      cases h
      exact .inl hmem
  · unfold State.hostRegWrite at h
    split at h
    · cases h
    · rename_i v _ _ _ off _
      have hmem : (s.popOp.writeReg (Reg.at? off) v).mem = s.mem := by rw [(State.writeReg_frame _ v s.popOp).1, State.popOp]
      cases h
      exact .inl hmem
  · unfold State.hostMemRead at h
    split_ifs at h <;> cases h <;> exact .inl rfl
  · rename_i a b _ _
    unfold State.hostMemWrite at h
    split_ifs at h
    cases h
    exact .inr ⟨a, b, rfl⟩
  · cases h
    rw [State.hostPoll_eq]
    exact .inl rfl

theorem State.hostStep_inv {s t : State} (hs : s.Inv) (h : s.hostStep = .next t) : t.Inv := by
  obtain ⟨hdp, -⟩ := State.hostStep_frame h
  refine ⟨?_, hdp ▸ hs.e0, hdp ▸ hs.e1, hdp ▸ hs.context, ?_⟩
  · rcases State.hostStep_mem h with hmem | ⟨a, b, hmem⟩
    · rw [hmem]
      exact hs.mem
    · rw [hmem]
      exact Memory.wf_write hs.mem a.isLt b
  · rcases State.hostStep_cases h with ⟨_, _, _, rfl, -⟩ | ⟨_, _, v, _, off, _, _, rfl⟩
    · exact hs.flags
    · exact State.writeReg_flagsSound (s := s.popOp) hs.flags _ _

theorem State.after_inv {s : State} (hs : s.Inv) (i : Instr) : (s.after i (s.effect i)).Inv := by
  have hsound := (s.effect_cases i).sound hs.sound
  exact ⟨Memory.wf_writeAll hs.mem _, hsound.engine .e0, hsound.engine .e1, hsound.context,
    Window.complete_flagsSound s.win _⟩

theorem State.popTurn_inv {s : State} (hs : s.Inv) : s.popTurn.Inv :=
  ⟨hs.mem, hs.e0, hs.e1, hs.context, hs.flags⟩

theorem State.resetEvent_inv {s : State} (hs : s.Inv) : s.resetEvent.Inv := by
  obtain ⟨hwin, ⟨sc, hdp⟩, hmem, -⟩ := s.resetEvent_fields
  refine ⟨?_, ?_, ?_, ?_, ?_⟩
  · rw [hmem]
    exact State.wf_drawRegions hs.mem _
  · rw [hdp]
    exact Engine.sound_of_finalized rfl
  · rw [hdp]
    exact Engine.sound_of_finalized rfl
  · rw [hdp]
    exact nofun
  · rw [hwin]
    exact ⟨nofun, nofun⟩

/-- Settles O59, turn by turn. -/
theorem stepKeepsTheInvariant : Obligations.StepKeepsTheInvariant := by
  intro s t hs h
  have hpop := State.popTurn_inv hs
  rcases step_cases h with ⟨-, hhost⟩ | ⟨-, -, rfl⟩ | ⟨-, -, i, -, hx⟩ | ⟨-, -, -, -, rfl⟩ | ⟨-, rfl⟩
  · exact State.hostStep_inv hpop hhost
  · exact hpop
  · rw [exec_eq_next_iff] at hx
    subst hx
    exact State.after_inv hpop i
  · exact ⟨hpop.mem, hpop.e0, hpop.e1, hpop.context, Window.complete_flagsSound _ _⟩
  · exact State.resetEvent_inv hpop

end Sys2Proof.Machine

/-! PROOFS. States the host cannot tell apart take steps it cannot tell apart: the checks, the effect of a command, the
host's accesses and reset read nothing of the hidden state (spec/10_state.md R35, R36, spec/60_exceptions.md R247). -/

namespace Sys2Proof.Machine

/-! ### Engines alike -/

section Engines
variable {x y : Engine}

theorem Engine.alike_of_finalized (hx : x.fsm = .finalized) (hy : y.fsm = .finalized) : x.alike y :=
  ⟨hx.trans hy.symm, fun hne => absurd hx hne⟩

theorem Engine.SameStream.alike (h : x.SameStream y) (hfsm : x.fsm = y.fsm) : x.alike y :=
  ⟨hfsm, fun _ => ⟨h.h, h.pos, h.size, h.buffered⟩⟩

theorem Engine.alike_refl (x : Engine) : x.alike x := (Engine.SameStream.refl x).alike rfl

theorem Engine.alike.sameStream (h : x.alike y) (hne : x.fsm ≠ .finalized) : x.SameStream y := by
  obtain ⟨hh, hpos, hsize, hbuffered⟩ := h.2 hne
  exact ⟨hh, hpos, hsize, hbuffered⟩

/-- With nothing buffered, H, POS and SIZE are all an engine holds. -/
theorem Engine.sameStream_of_snapshot (h : x.snapshot = y.snapshot) (hpos : x.pos = 0) : x.SameStream y := by
  have hpos' : x.pos = y.pos := congrArg Snapshot.pos h
  refine ⟨congrArg Snapshot.h h, hpos', congrArg Snapshot.size h, ?_⟩
  rw [Engine.buffered_of_pos_zero hpos, Engine.buffered_of_pos_zero (hpos'.symm.trans hpos)]

end Engines

/-! ### Data paths alike -/

/-- The part of `Datapath.alike` on the context. -/
def Datapath.contextAlike (d d' : Datapath) : Prop :=
  d.ctxValid = d'.ctxValid ∧ (d.ctxValid = true → d.ctxI = d'.ctxI ∧ d.ctxO = d'.ctxO)

section Alike
variable {d d' : Datapath}

theorem Datapath.alike_iff : d.alike d' ↔ (∀ e, (d.engine e).alike (d'.engine e)) ∧ d.contextAlike d' := by
  constructor
  · rintro ⟨he0, he1, hcontext⟩
    refine ⟨fun e => ?_, hcontext⟩
    cases e
    · exact he0
    · exact he1
  · rintro ⟨hengine, hcontext⟩
    exact ⟨hengine .e0, hengine .e1, hcontext⟩

theorem Datapath.alike_refl (d : Datapath) : d.alike d :=
  ⟨Engine.alike_refl _, Engine.alike_refl _, rfl, fun _ => ⟨rfl, rfl⟩⟩

/-- The context registers of two data paths taken over from two whose contexts are alike. -/
theorem Datapath.contextAlike_congr {b b' : Datapath} (h : d.ctxI = b.ctxI ∧ d.ctxO = b.ctxO ∧ d.ctxValid = b.ctxValid)
    (h' : d'.ctxI = b'.ctxI ∧ d'.ctxO = b'.ctxO ∧ d'.ctxValid = b'.ctxValid) (hb : b.contextAlike b') :
    d.contextAlike d' := by
  obtain ⟨hI, hO, hvalid⟩ := h
  obtain ⟨hI', hO', hvalid'⟩ := h'
  rwa [Datapath.contextAlike, hI, hO, hvalid, hI', hO', hvalid']

/-- The data paths are alike in what a command neither uses nor builds. -/
structure Datapath.AlikeOutside (i : Instr) (d d' : Datapath) : Prop where
  engine  : ∀ e, usesEngine i e = false → (d.engine e).alike (d'.engine e)
  context : buildsContext i = false → d.contextAlike d'

theorem Datapath.alike.outside (h : d.alike d') (i : Instr) : d.AlikeOutside i d' := by
  obtain ⟨hengine, hcontext⟩ := Datapath.alike_iff.mp h
  exact ⟨fun e _ => hengine e, fun _ => hcontext⟩

theorem Datapath.AlikeOutside.command {i : Instr} (h : d.AlikeOutside i d') (src salt : List Byte) (n : Nat) :
    (commandDatapath i src salt n d).AlikeOutside i (commandDatapath i src salt n d') where
  engine e he := by
    rw [commandDatapath_engine_unused he, commandDatapath_engine_unused he]
    exact h.engine e he
  context hi := Datapath.contextAlike_congr (commandDatapath_context hi _ _ _ _) (commandDatapath_context hi _ _ _ _)
    (h.context hi)

/-- An E_BUS abort draws all that a command uses and builds. -/
theorem abortedDatapath_alike {i : Instr} (h : d.AlikeOutside i d') (k : Nat) :
    (abortedDatapath i k d).alike (abortedDatapath i k d') := by
  rw [Datapath.alike_iff]
  constructor
  · intro e
    cases he : usesEngine i e
    · rw [abortedDatapath_engine_unused k d he, abortedDatapath_engine_unused k d' he]
      exact h.engine e he
    · exact Engine.alike_of_finalized (abortedDatapath_fsm k d he) (abortedDatapath_fsm k d' he)
  · cases hi : buildsContext i
    · exact Datapath.contextAlike_congr (abortedDatapath_context k d hi) (abortedDatapath_context k d' hi) (h.context hi)
    · rw [Datapath.contextAlike, abortedDatapath_ctxValid k d hi, abortedDatapath_ctxValid k d' hi]
      exact ⟨rfl, nofun⟩

/-! ### What a command computes -/

/-- A tag depends on the context alone, if its snapshots have nothing buffered. -/
theorem Datapath.macTag_digest_congr (hI : d.ctxI = d'.ctxI) (hO : d.ctxO = d'.ctxO) (hposI : d.ctxI.pos = 0)
    (hposO : d.ctxO.pos = 0) (M : List Byte) : (d.macTag M).digest .e1 = (d'.macTag M).digest .e1 := by
  have hinner : (d.macInner M).digest .e0 = (d'.macInner M).digest .e0 := by
    rw [Datapath.digest_eq, Datapath.digest_eq, Datapath.engine_e0, Datapath.engine_e0, Datapath.macInner_e0,
      Datapath.macInner_e0, ← hI]
    exact congrArg Machine.digest
      (Engine.SameStream.absorb (Engine.sameStream_of_snapshot (by rfl) hposI) M).finalize_h
  rw [Datapath.digest_eq, Datapath.digest_eq, Datapath.engine_e1, Datapath.engine_e1, Datapath.macTag_e1,
    Datapath.macTag_e1, ← hO, hinner]
  exact congrArg Machine.digest (Engine.SameStream.absorb (Engine.sameStream_of_snapshot (by rfl) hposO) _).finalize_h

/-- The engines of a context built hold its snapshots and nothing more. -/
theorem Datapath.buildContext_engine_alike (d d' : Datapath) {K : List Byte} (hK : K.length ≤ 2 ^ 125 - 1)
    (e : EngineId) : ((d.buildContext K).engine e).alike ((d'.buildContext K).engine e) := by
  obtain ⟨hI, hO, -⟩ := d.buildContext_snapshots K
  obtain ⟨hI', hO', -⟩ := d'.buildContext_snapshots K
  obtain ⟨hctxI, hctxO⟩ := d.buildContext_ctx hK
  obtain ⟨hctxI', hctxO'⟩ := d'.buildContext_ctx hK
  refine Engine.SameStream.alike ?_ ((d.buildContext_fsm K e).trans (d'.buildContext_fsm K e).symm)
  cases e
  · have hsnapshot := hI.symm.trans hctxI
    exact Engine.sameStream_of_snapshot (hsnapshot.trans (hI'.symm.trans hctxI').symm) (congrArg Snapshot.pos hsnapshot)
  · have hsnapshot := hO.symm.trans hctxO
    exact Engine.sameStream_of_snapshot (hsnapshot.trans (hO'.symm.trans hctxO').symm) (congrArg Snapshot.pos hsnapshot)

end Alike

section Commands
variable {s : State} {d : Datapath} {i : Instr}

theorem finalizedMisuse_alike (h : s.dp.alike d) (i : Instr) :
    finalizedMisuse { s with dp := d } i = finalizedMisuse s i := by
  have hfsm : ∀ e, (d.engine e).fsm = (s.dp.engine e).fsm := fun e => ((Datapath.alike_iff.mp h).1 e).1.symm
  cases i with
  | hashUpdate e | hashFinalize e => simp only [finalizedMisuse, hfsm]
  | hashInit | hashOneshot | macInit | macClone | macCompute | deriveKey => rfl

theorem contextMissing_alike (h : s.dp.alike d) (i : Instr) :
    contextMissing { s with dp := d } i = contextMissing s i := by
  obtain ⟨-, hvalid, -⟩ := Datapath.alike_iff.mp h
  cases i with
  | macClone | macCompute => simp only [contextMissing, hvalid]
  | hashInit | hashUpdate | hashFinalize | hashOneshot | macInit | deriveKey => rfl

/-- SIZE is read of an engine that is not FINALIZED. -/
theorem lengthExceeded_alike (h : s.dp.alike d) {i : Instr} (hfsm : finalizedMisuse s i = false) :
    lengthExceeded { s with dp := d } i = lengthExceeded s i := by
  cases i with
  | hashUpdate e =>
    have hsize := (((Datapath.alike_iff.mp h).1 e).sameStream (of_decide_eq_false hfsm)).size
    simp only [lengthExceeded, hsize]
  | hashInit | hashFinalize | hashOneshot | macInit | macClone | macCompute | deriveKey => rfl

theorem precheck_alike (h : s.dp.alike d) (i : Instr) : precheck { s with dp := d } i = precheck s i := by
  have hcap : saltCapacityShort { s with dp := d } i = saltCapacityShort s i := by cases i <;> rfl
  rw [precheck_eq, precheck_eq, finalizedMisuse_alike h, contextMissing_alike h, hcap]
  cases hfsm : finalizedMisuse s i
  · rw [lengthExceeded_alike h hfsm]
  · rfl

/-- What a command reads beside the data path does not depend on it. -/
theorem State.computed_with_dp (s : State) (d : Datapath) (i : Instr) : { s with dp := d }.computed i =
    commandDatapath i (s.bytesAt s.latch.src) s.framedSalt s.latch.iter.toNat d := rfl

/-- The snapshots a builder computes are those of the key (spec/42_keyed_mac.md R197, spec/43_key_stretcher.md R226). -/
theorem commandDatapath_context_of_builder (hi : buildsContext i = true) {src : List Byte}
    (hsrc : src.length ≤ 2 ^ 125 - 1) (salt : List Byte) (n : Nat) (d : Datapath) :
    (commandDatapath i src salt n d).ctxI = keySnapshot 0x36 src ∧
      (commandDatapath i src salt n d).ctxO = keySnapshot 0x5c src := by
  cases i with
  | macInit => exact d.buildContext_ctx hsrc
  | deriveKey =>
    obtain ⟨hI, hO, -⟩ := (d.buildContext src).stretch_context salt n
    obtain ⟨hI', hO'⟩ := d.buildContext_ctx hsrc
    exact ⟨hI.trans hI', hO.trans hO'⟩
  | hashInit | hashUpdate | hashFinalize | hashOneshot | macClone | macCompute => cases hi

/-- An engine that a command which passes its checks used. -/
theorem State.computed_engine_alike (hsound : s.dp.Sound) (h : s.dp.alike d) (hok : precheck s i = .ok) {e : EngineId}
    (he : usesEngine i e = true) :
    ((s.computed i).engine e).alike (({ s with dp := d }.computed i).engine e) := by
  obtain ⟨hengine, -, hctx⟩ := Datapath.alike_iff.mp h
  have hchecks := (checksPass_iff s i).mp hok
  have hlen := s.bytesAt_src_length_lt
  have hfsm : ((s.computed i).engine e).fsm = (({ s with dp := d }.computed i).engine e).fsm :=
    (commandDatapath_fsm he _ _ _ _).trans (commandDatapath_fsm he _ _ _ _).symm
  cases i with
  | hashFinalize | hashOneshot | macCompute | deriveKey =>
    exact Engine.alike_of_finalized (commandDatapath_fsm he _ _ _ _) (commandDatapath_fsm he _ _ _ _)
  | hashInit x =>
    obtain rfl := of_decide_eq_true he
    refine Engine.SameStream.alike (Engine.sameStream_of_snapshot ?_ ?_) hfsm
    all_goals simp [State.computed, commandDatapath, Engine.snapshot]
  | hashUpdate x =>
    obtain rfl := of_decide_eq_true he
    refine Engine.SameStream.alike ?_ hfsm
    have hstream := (hengine x).sameStream (of_decide_eq_false hchecks.notFinalized)
    simp only [State.computed, commandDatapath, Datapath.onEngine_engine]
    exact Engine.SameStream.absorb (l := s.dp.lane x) (l' := d.lane x) hstream _
  | macInit => exact Datapath.buildContext_engine_alike _ _ (by omega) e
  | macClone =>
    have hvalid : s.dp.ctxValid = true := by simpa [contextMissing] using hchecks.context
    obtain ⟨hI, hO⟩ := hctx hvalid
    obtain ⟨hposI, -, hposO, -⟩ := hsound.context hvalid
    refine Engine.SameStream.alike ?_ hfsm
    cases e
    · exact Engine.sameStream_of_snapshot hI hposI
    · exact Engine.sameStream_of_snapshot hO hposO

/-- What a command that passes its checks writes to DST. -/
theorem State.outputBytes_computed_alike (hsound : s.dp.Sound) (h : s.dp.alike d) (hok : precheck s i = .ok) :
    outputBytes i ({ s with dp := d }.computed i) = outputBytes i (s.computed i) := by
  obtain ⟨hengine, -, hctx⟩ := Datapath.alike_iff.mp h
  have hchecks := (checksPass_iff s i).mp hok
  have hlen := s.bytesAt_src_length_lt
  cases i with
  | hashInit | hashUpdate | macInit | macClone => rfl
  | hashFinalize e =>
    have hstream := (hengine e).sameStream (of_decide_eq_false hchecks.notFinalized)
    simp only [State.computed, outputBytes, commandDatapath, Datapath.digest_onEngine]
    exact congrArg digest (Engine.SameStream.finalize_h (l := d.lane e) (l' := s.dp.lane e) hstream.symm)
  | hashOneshot e =>
    have hdigest : ∀ d', outputBytes (.hashOneshot e) (commandDatapath (.hashOneshot e) (s.bytesAt s.latch.src)
        s.framedSalt s.latch.iter.toNat d') = sha512 (s.bytesAt s.latch.src) := by
      intro d'
      rw [outputBytes, commandDatapath, Datapath.digest_onEngine, Lane.digest_oneshot _ (by omega)]
    rw [State.computed_with_dp, State.computed, hdigest, hdigest]
  | macCompute =>
    have hvalid : s.dp.ctxValid = true := by simpa [contextMissing] using hchecks.context
    obtain ⟨hI, hO⟩ := hctx hvalid
    obtain ⟨hposI, -, hposO, -⟩ := hsound.context hvalid
    exact (Datapath.macTag_digest_congr hI hO hposI hposO _).symm
  | deriveKey =>
    have hsalt : s.framedSalt.length ≤ 2 ^ 124 := by
      have haux : s.latch.auxLen.toNat < 2 ^ 32 := s.latch.auxLen.isLt
      rw [State.framedSalt_length]
      omega
    have hkey : ∀ d', outputBytes .deriveKey (commandDatapath .deriveKey (s.bytesAt s.latch.src) s.framedSalt
        s.latch.iter.toNat d') = derivedKey (s.bytesAt s.latch.src) s.framedSalt s.latch.iter.toNat := by
      intro d'
      obtain ⟨hI, hO⟩ := d'.buildContext_ctx (K := s.bytesAt s.latch.src) (by omega)
      exact Datapath.stretch_acc hI hO hsalt _
    rw [State.computed_with_dp, State.computed, hkey, hkey]

theorem State.computed_alike (hsound : s.dp.Sound) (h : s.dp.alike d) (hok : precheck s i = .ok) :
    (finishedDatapath i (s.computed i)).alike (finishedDatapath i ({ s with dp := d }.computed i)) := by
  have houtside : (s.computed i).AlikeOutside i ({ s with dp := d }.computed i) := (h.outside i).command _ _ _
  rw [Datapath.alike_iff]
  constructor
  · intro e
    rw [finishedDatapath_engine, finishedDatapath_engine]
    cases he : usesEngine i e
    · exact houtside.engine e he
    · exact State.computed_engine_alike hsound h hok he
  · cases hi : buildsContext i
    · rw [finishedDatapath_of_not_builder hi, finishedDatapath_of_not_builder hi]
      exact houtside.context hi
    · have hlen := s.bytesAt_src_length_lt
      obtain ⟨hI, hO⟩ := commandDatapath_context_of_builder hi (src := s.bytesAt s.latch.src) (by omega) s.framedSalt
        s.latch.iter.toNat s.dp
      obtain ⟨hI', hO'⟩ := commandDatapath_context_of_builder hi (src := s.bytesAt s.latch.src) (by omega) s.framedSalt
        s.latch.iter.toNat d
      rw [finishedDatapath, finishedDatapath, if_pos hi, if_pos hi]
      exact ⟨rfl, fun _ => ⟨hI.trans hI'.symm, hO.trans hO'.symm⟩⟩

/-! ### Effects alike -/

/-- Two effects that differ in data paths alike. -/
structure Effect.Alike (x y : Effect) : Prop where
  code   : x.code = y.code
  dp     : x.dp.alike y.dp
  draws  : x.draws = y.draws
  writes : x.writes = y.writes

theorem Effect.Alike.abort {d d' : Datapath} (h : d.AlikeOutside i d') (k : Nat) (ws : List (Nat × List Byte)) :
    (Effect.abort i k d ws).Alike (.abort i k d' ws) :=
  ⟨rfl, abortedDatapath_alike h k, rfl, rfl⟩

theorem Datapath.alikeOutside_deriveKey (d d' : Datapath) : d.AlikeOutside .deriveKey d' :=
  ⟨nofun, nofun⟩

/-- A command sees nothing of what data paths alike differ in. -/
theorem State.effect_alike (hsound : s.dp.Sound) (h : s.dp.alike d) (i : Instr) :
    (s.effect i).Alike ({ s with dp := d }.effect i) := by
  have houtside := h.outside i
  rw [State.effect, State.effect, precheck_alike h]
  split_ifs with hok
  · change Effect.Alike _ (accessEffect i s.latch s.plat s.draws d (s.bytesAt s.latch.src) s.framedSalt)
    unfold accessEffect
    split_ifs with _ hcounter hsalt
    · exact .abort houtside _ _
    · obtain ⟨rfl, -⟩ := hcounter
      exact .abort (Datapath.alikeOutside_deriveKey _ _) _ _
    · obtain ⟨rfl, -⟩ := hsalt
      exact .abort (Datapath.alikeOutside_deriveKey _ _) _ _
    · exact .abort (houtside.command _ _ _) _ _
    · refine ⟨rfl, State.computed_alike hsound h hok, rfl, ?_⟩
      have hout := State.outputBytes_computed_alike hsound h hok
      rw [State.computed_with_dp, State.computed] at hout
      simp only [outputWrite, hout]
  · exact ⟨rfl, h, rfl, rfl⟩

end Commands

/-! ### States alike -/

/-- States alike differ in the data path and the latch at most. -/
theorem State.alike_iff {s t : State} : s.alike t ↔ ∃ l d, t = { s with latch := l, dp := d } ∧
    (s.win.busy = true → s.latch = l) ∧ s.dp.alike d := by
  constructor
  · rintro ⟨hwin, hmem, hplat, hhost, hdraws, hlatch, hdp⟩
    refine ⟨t.latch, t.dp, ?_, hlatch, hdp⟩
    rw [hwin, hmem, hplat, hhost, hdraws]
  · rintro ⟨l, d, rfl, hlatch, hdp⟩
    exact ⟨rfl, rfl, rfl, rfl, rfl, hlatch, hdp⟩

section States
variable {s t : State}

theorem State.alike.win_eq (h : s.alike t) : s.win = t.win := by
  obtain ⟨hwin, -⟩ := h
  exact hwin

theorem State.alike.mem_eq (h : s.alike t) : s.mem = t.mem := by
  obtain ⟨-, hmem, -⟩ := h
  exact hmem

theorem State.alike.plat_eq (h : s.alike t) : s.plat = t.plat := by
  obtain ⟨-, -, hplat, -⟩ := h
  exact hplat

theorem State.alike.host_eq (h : s.alike t) : s.host = t.host := by
  obtain ⟨-, -, -, hhost, -⟩ := h
  exact hhost

theorem State.alike.status_eq (h : s.alike t) : s.status = t.status := by
  obtain ⟨l, d, rfl, -, ⟨hfsm0, -⟩, ⟨hfsm1, -⟩, hvalid, -⟩ := State.alike_iff.mp h
  rw [State.status, hfsm0, hfsm1, hvalid, State.status]

/-- While a command is running the latch is the same, and with it the footprint. -/
theorem State.alike.running_eq (h : s.alike t) :
    t.runningReadSet = s.runningReadSet ∧ t.runningWriteSet = s.runningWriteSet := by
  obtain ⟨l, d, rfl, hlatch, -⟩ := State.alike_iff.mp h
  cases hbusy : s.win.busy
  · obtain ⟨hread, hwrite⟩ := State.running_of_none (s := s) (.inl hbusy)
    obtain ⟨hread', hwrite'⟩ := State.running_of_none (s := { s with latch := l, dp := d }) (.inl hbusy)
    exact ⟨hread'.trans hread.symm, hwrite'.trans hwrite.symm⟩
  · obtain rfl := hlatch hbusy
    exact ⟨rfl, rfl⟩

theorem State.alike.popTurn (h : s.alike t) : s.popTurn.alike t.popTurn := by
  obtain ⟨l, d, rfl, hlatch, hd⟩ := State.alike_iff.mp h
  exact ⟨rfl, rfl, rfl, rfl, rfl, hlatch, hd⟩

theorem State.alike.popOp (h : s.alike t) : s.popOp.alike t.popOp := by
  obtain ⟨l, d, rfl, hlatch, hd⟩ := State.alike_iff.mp h
  exact ⟨rfl, rfl, rfl, rfl, rfl, hlatch, hd⟩

theorem State.alike.got (h : s.alike t) (x : HostRead) : (s.got x).alike (t.got x) := by
  obtain ⟨l, d, rfl, hlatch, hd⟩ := State.alike_iff.mp h
  exact ⟨rfl, rfl, rfl, rfl, rfl, hlatch, hd⟩

/-! ### Host steps alike -/

theorem State.alike.readStatus (h : s.alike t) :
    s.readStatus.1 = t.readStatus.1 ∧ s.readStatus.2.alike t.readStatus.2 := by
  have hstatus := h.status_eq
  obtain ⟨l, d, rfl, hlatch, hd⟩ := State.alike_iff.mp h
  unfold State.readStatus
  split
  · exact ⟨rfl, rfl, rfl, rfl, rfl, rfl, hlatch, hd⟩
  · exact ⟨hstatus, h⟩

theorem State.alike.readReg (h : s.alike t) (r : Option Reg) :
    (s.readReg r).1 = (t.readReg r).1 ∧ (s.readReg r).2.alike (t.readReg r).2 := by
  rcases r with _ | r
  · exact ⟨rfl, h⟩
  cases r
  case status => exact h.readStatus
  all_goals
    refine ⟨?_, h⟩
    simp only [State.readReg, h.win_eq]

theorem State.alike.writeReg (h : s.alike t) (r : Option Reg) (v : Word32) : (s.writeReg r v).alike (t.writeReg r v) := by
  obtain ⟨l, d, rfl, hlatch, hd⟩ := State.alike_iff.mp h
  rcases r with _ | r
  · exact h
  cases r
  case id => exact h
  case cmd =>
    unfold State.writeReg State.writeCmd
    split_ifs
    · exact ⟨rfl, rfl, rfl, rfl, rfl, hlatch, hd⟩
    · exact ⟨rfl, rfl, rfl, rfl, rfl, fun _ => rfl, hd⟩
  all_goals exact ⟨rfl, rfl, rfl, rfl, rfl, hlatch, hd⟩

theorem State.alike.hostRegRead (h : s.alike t) (addr : Nat) (width : Width) :
    outcomesAlike (s.hostRegRead addr width) (t.hostRegRead addr width) := by
  unfold State.hostRegRead
  rw [← h.plat_eq]
  cases s.plat.windowOffset addr width with
  | error r => exact rfl
  | ok off =>
    obtain ⟨hvalue, halike⟩ := h.readReg (Reg.at? off)
    dsimp only
    rw [hvalue]
    exact halike.got _

theorem State.alike.hostRegWrite (h : s.alike t) (addr : Nat) (width : Width) (v : Word32) :
    outcomesAlike (s.hostRegWrite addr width v) (t.hostRegWrite addr width v) := by
  unfold State.hostRegWrite
  rw [← h.plat_eq]
  cases s.plat.windowOffset addr width with
  | error r => exact rfl
  | ok off => exact h.writeReg _ v

theorem State.alike.hostMemRead (h : s.alike t) (a : Word32) : outcomesAlike (s.hostMemRead a) (t.hostMemRead a) := by
  obtain ⟨-, hwrite⟩ := h.running_eq
  unfold State.hostMemRead
  rw [hwrite]
  obtain ⟨l, d, rfl, hlatch, hd⟩ := State.alike_iff.mp h
  dsimp only
  split_ifs
  · exact rfl
  · exact ⟨rfl, rfl, rfl, rfl, rfl, hlatch, hd⟩
  · exact ⟨rfl, rfl, rfl, rfl, rfl, hlatch, hd⟩

theorem State.alike.hostMemWrite (h : s.alike t) (a : Word32) (b : Byte) :
    outcomesAlike (s.hostMemWrite a b) (t.hostMemWrite a b) := by
  obtain ⟨hread, hwrite⟩ := h.running_eq
  unfold State.hostMemWrite
  rw [hread, hwrite]
  obtain ⟨l, d, rfl, hlatch, hd⟩ := State.alike_iff.mp h
  dsimp only
  split_ifs
  · exact rfl
  · exact rfl
  · exact ⟨rfl, rfl, rfl, rfl, rfl, hlatch, hd⟩

theorem State.alike.hostPoll (h : s.alike t) : s.hostPoll.alike t.hostPoll := by
  obtain ⟨hvalue, halike⟩ := h.readStatus
  unfold State.hostPoll
  dsimp only
  rw [hvalue, h.plat_eq]
  split_ifs
  · exact halike.got _
  · exact (halike.got _).popOp

theorem State.alike.hostStep (h : s.alike t) : outcomesAlike s.hostStep t.hostStep := by
  unfold State.hostStep
  rw [← h.host_eq]
  split
  · exact h
  · exact h.popOp.hostRegRead _ _
  · exact h.popOp.hostRegWrite _ _ _
  · exact h.popOp.hostMemRead _
  · exact h.popOp.hostMemWrite _ _
  · exact h.hostPoll

/-! ### Engine steps and reset alike -/

theorem State.exec_alike {d : Datapath} (hsound : s.dp.Sound) (h : s.dp.alike d) (i : Instr) :
    outcomesAlike (exec i s) (exec i { s with dp := d }) := by
  obtain ⟨hcode, hdp, hdraws, hwrites⟩ := State.effect_alike hsound h i
  rw [exec_eq_effect, exec_eq_effect]
  generalize s.effect i = x at hcode hdp hdraws hwrites
  generalize { s with dp := d }.effect i = y at hcode hdp hdraws hwrites
  refine ⟨?_, ?_, rfl, rfl, hdraws, fun _ => rfl, hdp⟩
  · rw [State.after_win, State.after_win, hcode]
    rfl
  · rw [State.after_mem, State.after_mem, hwrites]

theorem State.alike.engineStep (h : s.alike t) (hsound : s.dp.Sound) : outcomesAlike s.engineStep t.engineStep := by
  obtain ⟨l, d, rfl, hlatch, hd⟩ := State.alike_iff.mp h
  cases hbusy : s.win.busy
  · rw [State.engineStep_idle hbusy, State.engineStep_idle (s := { s with latch := l, dp := d }) hbusy]
    exact h
  · obtain rfl := hlatch hbusy
    cases hcmd : decode s.latch.cmd with
    | command i =>
      rw [State.engineStep_of_command hbusy hcmd, State.engineStep_of_command (s := { s with dp := d }) hbusy hcmd]
      exact State.exec_alike hsound hd i
    | illegal why =>
      rw [State.engineStep_of_illegal hbusy hcmd, State.engineStep_of_illegal (s := { s with dp := d }) hbusy hcmd]
      exact ⟨rfl, rfl, rfl, rfl, rfl, fun _ => rfl, hd⟩

theorem State.alike.drawRegions (h : s.alike t) (rs : List Region) :
    (State.drawRegions rs s).alike (State.drawRegions rs t) := by
  induction rs generalizing s t with
  | nil => exact h
  | cons r rs ih =>
    refine ih ?_
    obtain ⟨l, d, rfl, hlatch, hd⟩ := State.alike_iff.mp h
    exact ⟨rfl, rfl, rfl, rfl, rfl, hlatch, hd⟩

theorem State.alike.resetEvent (h : s.alike t) : s.resetEvent.alike t.resetEvent := by
  obtain ⟨-, hmem, hplat, hhost, hdraws, -⟩ := h.drawRegions s.runningWriteSet
  unfold State.resetEvent
  rw [h.running_eq.2]
  refine ⟨rfl, hmem, hplat, hhost, congrArg (· + 1) hdraws, nofun, ?_⟩
  exact ⟨Engine.alike_refl _, Engine.alike_refl _, rfl, nofun⟩

/-! ### The statement -/

theorem State.alike.nextTurn_eq (h : s.alike t) : s.nextTurn = t.nextTurn := by
  obtain ⟨l, d, rfl, -⟩ := State.alike_iff.mp h
  rfl

theorem State.alike.step (h : s.alike t) (hs : s.Inv) : outcomesAlike (step s) (step t) := by
  have hpop := h.popTurn
  cases hturn : s.nextTurn with
  | host =>
    rw [step_of_host hturn, step_of_host (h.nextTurn_eq.symm.trans hturn)]
    exact hpop.hostStep
  | engine =>
    rw [step_of_engine hturn, step_of_engine (h.nextTurn_eq.symm.trans hturn)]
    exact hpop.engineStep (State.popTurn_inv hs).sound
  | reset =>
    rw [step_of_reset hturn, step_of_reset (h.nextTurn_eq.symm.trans hturn)]
    exact hpop.resetEvent

end States

/-- Settles O60. -/
theorem hiddenStateIsUnobservable : Obligations.HiddenStateIsUnobservable := by
  intro s t hs h
  refine ⟨h.step hs, ?_, ?_, ?_⟩
  · rw [State.observe, h.status_eq, h.win_eq, h.mem_eq, State.observe]
  · rw [State.irq, h.win_eq, State.irq]
  · rw [h.host_eq]

end Sys2Proof.Machine
